-- ==== Sys2Proof/Word.lean ====
section
/-! DEFINITION. The value types of the core: bytes, bits, pixels, event words, grids (spec rules R13 to R16).
A timestamp or a duration is a natural number of ticks, unbounded: plain `Nat` (R13, R19). -/

namespace Sys2Proof

/-- A RawByte: an 8-bit unsigned value, bit 0 least significant (R14). -/
abbrev RawByte := BitVec 8

/-- A BitValue, one of 0 and 1 (R15); `true` is 1. -/
abbrev BitValue := Bool

/-- A BitSequence, index 0 the first and oldest bit (R15). -/
abbrev BitSequence := List BitValue

/-- A pixel: `W_PIX = 8` bits, unsigned (R12, R90). -/
abbrev Pixel := BitVec 8

/-- An event word `ev[10:0]` (R91). -/
abbrev EventWord := BitVec 11

/-- A grid given by its rows, row 0 at the top, column 0 at the left (R16). -/
abbrev Grid (α : Type) := List (List α)

end Sys2Proof
end

