-- ==== Sys2Proof/Config.lean ====
section
/-! DEFINITION. The configuration record CFG and the open implementation parameters, with the defaults the spec
states (R7 to R12, R33 to R40). The core has no free value (R218), so nothing here is opaque. -/

namespace Sys2Proof

/-- DESIGN CHOICE (log 1, unsafe): the value of BAUDRATE where none is given. The spec gives no default (R38) and no
rule reads the field. -/
def Config.baudrateUnspecified : Nat := 0

/-- The configuration record `CFG` (R33), each field with the default of its rule. -/
structure Cfg where
  /-- PACKET_SIZE, written `N` in the spec (R7, R34). -/
  packetSize : Nat := 64
  /-- HEIGHT, written `H` in the spec (R8, R35). -/
  height : Nat := 510
  /-- Q_TICKS, the quiescence threshold (R9, R36). -/
  qTicks : Nat := 900
  /-- P_TICKS, the poll interval (R10, R37). -/
  pTicks : Nat := 100
  /-- BAUDRATE, read by no rule (R11, R38). -/
  baudrate : Nat := Config.baudrateUnspecified
  deriving DecidableEq, Repr

/-- The open parameters the spec adds (R12), fixed for the machine; `none` is unbounded. `W_PIX` is the width of
`Pixel`. -/
structure Impl where
  /-- TICK_HZ, ticks per second (R12, R19). -/
  tickHz : Nat := 1000
  /-- W_T, the width of a timestamp in bits (R12, R157). -/
  tsWidth : Option Nat := none
  /-- BS_CAP, the capacity of the bit-sequence store in bits (R12, R138). -/
  bsCap : Option Nat := none
  deriving DecidableEq, Repr

/-- The default configuration (R7 to R11). -/
def Config.defaultCfg : Cfg := { }

/-- The default open parameters (R12). -/
def Config.defaultImpl : Impl := { }

end Sys2Proof
end

