-- ==== Sys2Proof/Syntax.lean ====
section
/-! DEFINITION. The syntax: the four events (one constructor per row of the opcode table), the stimuli the environment
presents, and the lines of the trace notation (R91 to R105, R200, R212). -/

namespace Sys2Proof

/-- An event (R200). The side-band timestamp `now` is an operand of POLL and RXB only; the `data` field is an operand
of RXB only (R91, R97). -/
inductive Instr where
  /-- POLL (R92, R206): no byte available. -/
  | poll (now : Nat)
  /-- RXB (R93, R204): one byte available. -/
  | rxb (data : RawByte) (now : Nat)
  /-- CANCEL (R94, R210): stop on request. -/
  | cancel
  /-- RXERR (R95, R211): the byte source reported an I/O error. -/
  | rxerr
  deriving DecidableEq, Repr

/-- What the environment can do to the core at an event boundary: present an event word with its timestamp (R91,
R100), or apply and release reset with the given configuration inputs (R280, R283). -/
inductive Stimulus where
  | event (word : EventWord) (now : Nat)
  | reset (cfg : Cfg)
  deriving DecidableEq, Repr

/-- One line of the trace notation (R102 to R104). Bytes are numbers here, so that a byte out of range can be written
and refused (R105). A `cfg` field left out is `none`. -/
inductive TraceLine where
  | cfg (packetSize height qTicks pTicks : Option Nat)
  | reset
  | poll (now : Nat)
  | rxb (byte : Nat) (now : Nat)
  | cancel
  | rxerr
  /-- The chunked read (R104, R212). -/
  | rx (bytes : List Nat) (now : Nat)
  /-- A chunked read of exactly one packet (R104). -/
  | pkt (bytes : List Nat) (now : Nat)
  deriving DecidableEq, Repr

end Sys2Proof
end

