-- ==== Sys2Proof/Machine/Operands.lean ====
section
/-! DEFINITION. The operand fields of an event word (R91) and the operand assembly of a packet (R81, R87). -/

namespace Sys2Proof.Machine

/-- The field `op = ev[10:8]` (R91). -/
def opField (w : EventWord) : BitVec 3 := w.extractLsb' 8 3

/-- The field `data = ev[7:0]` (R91). -/
def dataField (w : EventWord) : RawByte := w.extractLsb' 0 8

/-- The event word with the given fields (R91). -/
def eventWord (op : BitVec 3) (data : RawByte) : EventWord := op ++ data

/-- Wire bit `w` of a packet, `pkt[w div 8][w mod 8]` (R81). -/
def wireBit (pkt : List RawByte) (w : Nat) : BitValue := (pkt.getD (w / 8) 0).getLsbD (w % 8)

/-- Image bit `k` of a packet, `pkt[(k + 1) div 8][(k + 1) mod 8]` (R87). -/
def imageBit (pkt : List RawByte) (k : Nat) : BitValue := wireBit pkt (k + 1)

end Sys2Proof.Machine
end

