-- ==== Sys2Proof/Machine/BitDecoder.lean ====
section
/-! DEFINITION. BitDecoder: the packet bit-reversal decoder with guard-bit stripper (R110 to R120), and the packing of
wire bits into a packet (R89). -/

namespace Sys2Proof.Machine

/-- REV8: reverse the bit order of one byte, `r[j] = b[7 - j]` (R110); the list is written most significant bit
first. -/
def rev8 (b : RawByte) : RawByte :=
  BitVec.ofBoolListBE
    [b.getLsbD 0, b.getLsbD 1, b.getLsbD 2, b.getLsbD 3, b.getLsbD 4, b.getLsbD 5, b.getLsbD 6, b.getLsbD 7]

/-- EMIT8: the eight bits of a byte, most significant first (R111). -/
def emit8 (r : RawByte) : BitSequence :=
  [r.getLsbD 7, r.getLsbD 6, r.getLsbD 5, r.getLsbD 4, r.getLsbD 3, r.getLsbD 2, r.getLsbD 1, r.getLsbD 0]

/-- BYTEBITS: reverse, then emit (R112). -/
def byteBits (b : RawByte) : BitSequence := emit8 (rev8 b)

/-- STREAM: the concatenated bitstream of a packet (R113). -/
def stream (pkt : List RawByte) : BitSequence := pkt.flatMap byteBits

/-- DECODE: the stream without its first and its last bit, the guards, whose values are not examined (R114, R84). -/
def decodePacket (pkt : List RawByte) : BitSequence := ((stream pkt).drop 1).dropLast

/-- The byte with the given bits, least significant first: `sum of bits[j] * 2^j` (R89). -/
def packByte (bits : BitSequence) : RawByte :=
  BitVec.ofNat 8 (bits.foldr (fun b acc => (if b then 1 else 0) + 2 * acc) 0)

/-- The packet of `n` bytes that carries the given wire bits, `pkt[m]` from wire bits `8m` to `8m + 7` (R89). -/
def packPacket : Nat → BitSequence → List RawByte
  | 0, _ => []
  | n + 1, wire => packByte (wire.take 8) :: packPacket n (wire.drop 8)

end Sys2Proof.Machine
end

