-- ==== Sys2Proof/Machine/Params.lean ====
section
/-! DEFINITION. The predicates over the configuration and the implementation parameters: CFG_OK (R39) and the bounds
that the finite widths W_T and BS_CAP put on a run (R138, R157). -/

namespace Sys2Proof.Machine

/-- CFG_OK (R39): evaluated once, at reset. -/
def cfgOk (c : Cfg) : Bool := decide (1 ≤ c.packetSize) && decide (1 ≤ c.height)

/-- A timestamp is within `W_T` bits; always so when W_T is unbounded (R157). -/
def tickFits (p : Impl) (t : Nat) : Bool :=
  match p.tsWidth with
  | none => true
  | some w => decide (t < 2 ^ w)

/-- A bit sequence of `n` bits is within `BS_CAP`; always so when BS_CAP is unbounded (R138). -/
def bitsFit (p : Impl) (n : Nat) : Bool :=
  match p.bsCap with
  | none => true
  | some cap => decide (n ≤ cap)

/-- The configuration a `cfg` line gives: fields left out take their defaults (R102). -/
def cfgOfFields (packetSize height qTicks pTicks : Option Nat) : Cfg :=
  { packetSize := packetSize.getD Config.defaultCfg.packetSize
    height := height.getD Config.defaultCfg.height
    qTicks := qTicks.getD Config.defaultCfg.qTicks
    pTicks := pTicks.getD Config.defaultCfg.pTicks }

end Sys2Proof.Machine
end

