-- ==== Sys2Proof/WellFormed.lean ====
section
/-! DEFINITION. Well-formed events (R91, R157) and well-formed traces (R105). -/

namespace Sys2Proof

/-- An event is well formed when its timestamp is within `W_T` bits (R91, R157); with the default, unbounded W_T
every event is. A RawByte is in range by its type. -/
def Instr.wellFormed (p : Impl) : Instr → Bool
  | .poll now => Machine.tickFits p now
  | .rxb _ now => Machine.tickFits p now
  | .cancel => true
  | .rxerr => true

/-- The line is an event line: it presents an event (R103), or is a pseudo-operation that expands to one at least. A
chunk of no bytes "expands to nothing at all (no event ...)" (R104). -/
def TraceLine.isEvent : TraceLine → Bool
  | .cfg _ _ _ _ => false
  | .reset => false
  | .poll _ => true
  | .rxb _ _ => true
  | .cancel => true
  | .rxerr => true
  | .rx bs _ => !bs.isEmpty
  | .pkt bs _ => !bs.isEmpty

/-- The timestamp of the events a line presents; none where it presents no event or an event without a timestamp (R103,
R104). -/
def TraceLine.time : TraceLine → Option Nat
  | .cfg _ _ _ _ => none
  | .reset => none
  | .poll t => some t
  | .rxb _ t => some t
  | .cancel => none
  | .rxerr => none
  | .rx bs t => if bs.isEmpty then none else some t
  | .pkt bs t => if bs.isEmpty then none else some t

/-- The bytes a line presents (R103, R104). -/
def TraceLine.bytes : TraceLine → List Nat
  | .cfg _ _ _ _ => []
  | .reset => []
  | .poll _ => []
  | .rxb b _ => [b]
  | .cancel => []
  | .rxerr => []
  | .rx bs _ => bs
  | .pkt bs _ => bs

/-- "every byte is in range" (R105). -/
def TraceLine.bytesInRange (l : TraceLine) : Bool := l.bytes.all fun b => decide (b ≤ 255)

/-- "`cfg` (if any) precedes `reset`; `reset` precedes the first event" (R105). `started` says that a reset has been
applied, `waiting` that a `cfg` line still waits for its reset (DEDUCED, log 10). A chunk of no bytes is no event (R104)
and may stand anywhere. -/
def Trace.orderOk (started waiting : Bool) : List TraceLine → Bool
  | [] => !waiting
  | .cfg _ _ _ _ :: ls => Trace.orderOk started true ls
  | .reset :: ls => Trace.orderOk true false ls
  | l :: ls => (!l.isEvent || (started && !waiting)) && Trace.orderOk started waiting ls

/-- "timestamps do not decrease from one event line to the next" (R105). -/
def Trace.timesOk (last : Nat) : List TraceLine → Bool
  | [] => true
  | l :: ls =>
    match l.time with
    | none => Trace.timesOk last ls
    | some t => decide (last ≤ t) && Trace.timesOk t ls

/-- "`pkt` has exactly `N` bytes" (R105), `N` the packet size configured at that line. -/
def Trace.packetsOk (n : Nat) : List TraceLine → Bool
  | [] => true
  | .cfg ps h q p :: ls => Trace.packetsOk (Machine.cfgOfFields ps h q p).packetSize ls
  | .pkt bs _ :: ls => decide (bs.length = n) && Trace.packetsOk n ls
  | _ :: ls => Trace.packetsOk n ls

/-- A trace is well formed (R105). -/
def Trace.wellFormed (ls : List TraceLine) : Bool :=
  Trace.orderOk false false ls && Trace.timesOk 0 ls && ls.all TraceLine.bytesInRange &&
    Trace.packetsOk Config.defaultCfg.packetSize ls

end Sys2Proof
end

