-- ==== Sys2Proof/Decode.lean ====
section
/-! DEFINITION. The decoder of event words (R91 to R97), the encoder, and the expansion of the trace notation into
stimuli (R102 to R104, R212). -/

namespace Sys2Proof

/-- Why a word is no event. -/
inductive DecodeError where
  /-- `op` is one of the reserved codes 100 to 111 (R96). -/
  | reservedOp (op : BitVec 3)
  deriving DecidableEq, Repr

/-- The event that an event word and its side-band timestamp select (R92 to R97). The `data` field is read for RXB
only and `now` for POLL and RXB only. -/
def decode (w : EventWord) (now : Nat) : Except DecodeError Instr :=
  match (Machine.opField w).toNat with
  | 0 => .ok (.poll now)
  | 1 => .ok (.rxb (Machine.dataField w) now)
  | 2 => .ok .cancel
  | 3 => .ok .rxerr
  | _ => .error (.reservedOp (Machine.opField w))

/-- The event word of an event, ignored fields written 0 as the trace notation does (R97, R103). -/
def encode : Instr → EventWord
  | .poll _ => Machine.eventWord 0b000#3 0#8
  | .rxb b _ => Machine.eventWord 0b001#3 b
  | .cancel => Machine.eventWord 0b010#3 0#8
  | .rxerr => Machine.eventWord 0b011#3 0#8

/-- The side-band timestamp presented with an event, 0 where it is ignored (R91, R97). -/
def encodeNow : Instr → Nat
  | .poll now => now
  | .rxb _ now => now
  | .cancel => 0
  | .rxerr => 0

/-- The stimulus that presents an event on the event port (R91). -/
def Instr.stimulus (i : Instr) : Stimulus := .event (encode i) (encodeNow i)

/-- The event word on the port for a word the opcode table numbers: the eleven lines `ev[10:0]` of the low `nbits`
bits (R91; log 11). -/
def tableWord (nbits w : Nat) : EventWord := BitVec.ofNat 11 (w % 2 ^ nbits)

/-- The side-band timestamp that goes with a bare table word: DESIGN CHOICE 0 (log 11). -/
def tableNow : Nat := 0

/-- The event the decoder reads from a word of the opcode table (log 11). -/
def decodeTableWord (nbits w : Nat) : Option Instr :=
  match decode (tableWord nbits w) tableNow with
  | .ok i => some i
  | .error _ => none

/-- RX, the chunked read: one RXB per byte, all with one timestamp; nothing at all for an empty chunk (R104, R212). -/
def rxEvents (chunk : List RawByte) (now : Nat) : List Instr := chunk.map fun b => .rxb b now

/-- The RawByte a byte written in a trace line stands for (R103: `0 <= B <= 255`). DESIGN CHOICE (log 18): a byte out of
range makes the trace ill formed (R105) and the spec gives the line no event word; the model takes it modulo 256. -/
def lineByte (b : Nat) : RawByte := BitVec.ofNat 8 b

/-- The events of one trace line; none for a directive (R103, R104). It gives the lines of an ill-formed trace events too
(DESIGN CHOICE, log 18): a byte out of range is taken by `lineByte`, and `pkt` with another number of bytes than `N`
presents the bytes it has, as `rx` does. `Trace.wellFormed` refuses such traces. -/
def traceLineEvents : TraceLine → List Instr
  | .cfg _ _ _ _ => []
  | .reset => []
  | .poll t => [.poll t]
  | .rxb b t => [.rxb (lineByte b) t]
  | .cancel => [.cancel]
  | .rxerr => [.rxerr]
  | .rx bs t => rxEvents (bs.map lineByte) t
  | .pkt bs t => rxEvents (bs.map lineByte) t

/-- The stimuli of a trace, `c` the configuration inputs as they stand (R102 to R104): a `cfg` line sets them, `reset`
applies reset with them, every other line presents its events. An ill-formed order of the lines (R105) is read so too
(log 18). -/
def traceStimuli (c : Cfg) : List TraceLine → List Stimulus
  | [] => []
  | .cfg ps h q p :: ls => traceStimuli (Machine.cfgOfFields ps h q p) ls
  | .reset :: ls => .reset c :: traceStimuli c ls
  | l :: ls => (traceLineEvents l).map Instr.stimulus ++ traceStimuli c ls

end Sys2Proof
end

