-- ==== Sys2Proof/Machine/State.lean ====
section
/-! DEFINITION. The state of the core (R20 to R49), the output actions it has produced (R202), the reasons a step can
stop, and the state after reset (R44). The core has no addressable memory (R20, R50), so no list of cells stands
here. -/

namespace Sys2Proof.Machine

/-- The values of `ST` (R25). FINALIZING is held only inside the POLL that finalizes (R26). -/
inductive LoopState where
  | idle
  | receiving
  | finalizing
  deriving DecidableEq, Repr

/-- The values of the 2-bit register `ERR` (R32, R240). -/
inductive ErrKind where
  /-- 0: none. -/
  | noError
  /-- 1: TransportOpenFailure, never written by the core (R241). -/
  | transportOpen
  /-- 2: TransportReadFailure, raised by RXERR (R242). -/
  | transportRead
  /-- 3: ConfigurationError, raised at reset (R243) and by ASSEMBLE for height 0 (R185). -/
  | config
  deriving DecidableEq, Repr

/-- What ASSEMBLE makes and `Emit` carries (R177, R202): the grid, its declared width and height, the number of bits
before padding and the pad count. -/
structure Frame where
  grid : Grid Pixel
  width : Nat
  height : Nat
  bitCount : Nat
  padCount : Nat
  deriving DecidableEq, Repr

/-- The output actions (R202). -/
inductive OutAction where
  /-- To the image sink: one finished frame. `padCount ≥ 1` is the IncompletePadding notice (R186). -/
  | emit (frame : Frame)
  /-- To the clock: re-poll after this many ticks. -/
  | sleep (ticks : Nat)
  /-- To the byte source: release. -/
  | close
  /-- To the operator: a code of `ERR`. -/
  | report (code : BitVec 2)
  deriving DecidableEq, Repr

/-- The whole state. `bb`, `bs`, `la`, `st`, `run`, `err`, `cfg` are the spec's (R20); `impl` holds the open parameters
(R12); `input` and `outs` are the model's own: the stimuli not yet consumed and the output actions produced so far
(R41, R200; log 2, log 3). -/
structure State where
  /-- CFG, written by reset only (R33, R40). -/
  cfg : Cfg
  /-- The open implementation parameters (R12), written by nothing. -/
  impl : Impl
  /-- BB, the byte buffer, oldest byte first (R21). -/
  bb : List RawByte
  /-- BS, the bit sequence, first bit first (R22). -/
  bs : BitSequence
  /-- LA, the last-activity timestamp (R23). -/
  la : Nat
  /-- ST, the SessionLoop state (R25). -/
  st : LoopState
  /-- RUN (R31). -/
  run : Bool
  /-- ERR (R32). -/
  err : ErrKind
  /-- The stimuli the environment has still to present, next first (R41). -/
  input : List Stimulus
  /-- The output actions produced so far, oldest first (R200). -/
  outs : List OutAction
  deriving DecidableEq, Repr

/-- The core has no fault: every error kind of the spec (R240) has an effect on the state and is a next state, so this
type has no constructor. -/
inductive Fault where
  deriving DecidableEq, Repr

/-- The reasons a step gives no meaning. -/
inductive Refusal where
  /-- Raised by an arm of `exec` for an instruction without a meaning (safe). No arm uses it. -/
  | notModelled (mnemonic : String)
  /-- Raised by the step for an event word with a reserved `op` (R96). Safe: the spec gives such a word no meaning. -/
  | reservedEventWord (op : BitVec 3)
  /-- Raised by RXB when a finite BS_CAP would be exceeded (R138). Safe: the spec refuses the trace at that event. -/
  | bitStoreFull
  /-- Raised by POLL and RXB when a timestamp or `LA + Q_TICKS` does not fit a finite W_T (R157). Safe: such a trace is
  outside the spec. -/
  | timestampOverflow
  deriving DecidableEq, Repr

/-- The machine right after reset with the default configuration (R44, R280). -/
def State.reset : State where
  cfg := Config.defaultCfg
  impl := Config.defaultImpl
  bb := []
  bs := []
  la := 0
  st := .idle
  run := true
  err := .noError
  input := []
  outs := []

end Sys2Proof.Machine
end

