-- ==== Sys2Proof/Machine/Flags.lean ====
section
/-! DEFINITION. The flags, none of them stored but RUN and ERR: each is a function of the state, and QUIESCENT also of
the event's `now` (R28 to R32). The codes of ST and ERR and the status outputs (R26, R32, R101). -/

namespace Sys2Proof.Machine

/-- PENDING: at least one bit is pending (R28). It looks at BS only. -/
def pending (s : State) : Bool := decide (1 ≤ s.bs.length)

/-- PKT_READY: a whole packet is buffered (R29). -/
def pktReady (s : State) : Bool := decide (s.cfg.packetSize ≤ s.bb.length)

/-- IS_QUIESCENT (R152): `now > LA + thr`, strict; false when `now` is before LA (R153). -/
def isQuiescent (now thr : Nat) (s : State) : Bool := decide (s.la + thr < now)

/-- QUIESCENT(now), with the configured threshold (R30). -/
def quiescent (now : Nat) (s : State) : Bool := isQuiescent now s.cfg.qTicks s

/-- The 2-bit code of ST (R26). -/
def loopStateCode : LoopState → BitVec 2
  | .idle => 0b00
  | .receiving => 0b01
  | .finalizing => 0b10

/-- The 2-bit code of ERR (R32). -/
def errCode : ErrKind → BitVec 2
  | .noError => 0
  | .transportOpen => 1
  | .transportRead => 2
  | .config => 3

/-- The status output `run` (R101). -/
def statusRun (s : State) : BitVec 1 := if s.run then 1 else 0

/-- The status output `err[1:0]` (R101). -/
def statusErr (s : State) : BitVec 2 := errCode s.err

end Sys2Proof.Machine
end

