-- ==== Sys2Proof/Machine/Ops.lean ====
section
/-! DEFINITION. The primitives that read and write the state (R17), output, and raising an error (R253). There is no
return from an error (R256), so nothing stands beside `raise`. -/

namespace Sys2Proof.Machine

/-- BBPush for each byte of a chunk, in order (R17). -/
def bbAppend (chunk : List RawByte) (s : State) : State := { s with bb := s.bb ++ chunk }

/-- BBPush (R17). -/
def bbPush (b : RawByte) (s : State) : State := bbAppend [b] s

/-- BBPop: the first `k` bytes, and the state without them (R17). -/
def bbPop (k : Nat) (s : State) : List RawByte × State := (s.bb.take k, { s with bb := s.bb.drop k })

/-- BSAppend (R17). -/
def bsAppend (bits : BitSequence) (s : State) : State := { s with bs := s.bs ++ bits }

/-- BSRead: the bit at index `i`, where there is one (R17). -/
def bsRead (i : Nat) (s : State) : Option BitValue := s.bs[i]?

/-- ACC_RESET: clear the accumulator (R133). -/
def accReset (s : State) : State := { s with bb := [], bs := [] }

/-- PENDING_BITS: the bit sequence, read whole (R135). -/
def pendingBits (s : State) : BitSequence := s.bs

/-- NOTE_ACTIVITY: `LA <- now`, unconditionally (R151). -/
def noteActivity (now : Nat) (s : State) : State := { s with la := now }

/-- `ST <- v` (R17). -/
def setSt (v : LoopState) (s : State) : State := { s with st := v }

/-- `RUN <- v` (R17). -/
def setRun (v : Bool) (s : State) : State := { s with run := v }

/-- `ERR <- v` (R17). -/
def setErr (v : ErrKind) (s : State) : State := { s with err := v }

/-- `out A`: append an output action (R17, R71). -/
def out (a : OutAction) (s : State) : State := { s with outs := s.outs ++ [a] }

/-- The stimuli still to come. -/
def setInput (v : List Stimulus) (s : State) : State := { s with input := v }

/-- `raise E` (R253): `ERR <- k`; `RUN <- 0`; `Close` only for a read failure, where the loop had started; then
`Report(k)`. Nothing is saved and control goes nowhere. -/
def raise (k : ErrKind) (s : State) : State :=
  let s1 := setRun false (setErr k s)
  let s2 := if k = .transportRead then out .close s1 else s1
  out (.report (errCode k)) s2

end Sys2Proof.Machine
end

