-- ==== Sys2Proof/Machine/Accumulator.lean ====
section
/-! DEFINITION. StreamAccumulator: FEED and FEED1 (R130 to R140). ACC_RESET and PENDING_BITS stand in Ops. -/

namespace Sys2Proof.Machine

/-- The loop of FEED (R131): while a packet is ready, take it from the front of BB, decode it and append its bits.
`fuel` bounds the passes; each pass shortens BB by `N ≥ 1`. -/
def drain : Nat → State → State
  | 0, s => s
  | fuel + 1, s =>
    if pktReady s then
      let popped := bbPop s.cfg.packetSize s
      drain fuel (bsAppend (decodePacket popped.1) popped.2)
    else s

/-- FEED: accept a chunk and decode every complete packet (R131). BB is at most as many packets as it has bytes, since
`N ≥ 1` (log 9). -/
def feed (chunk : List RawByte) (s : State) : State :=
  let s1 := bbAppend chunk s
  drain s1.bb.length s1

/-- FEED1: accept one byte, and decode BB when it is exactly one packet long (R132). -/
def feed1 (b : RawByte) (s : State) : State :=
  let s1 := bbPush b s
  if s1.bb.length = s1.cfg.packetSize then
    let popped := bbPop s1.cfg.packetSize s1
    bsAppend (decodePacket popped.1) popped.2
  else s1

end Sys2Proof.Machine
end

