-- ==== Sys2Proof/Machine/ImageAssembler.lean ====
section
/-! DEFINITION. ImageAssembler: pad, reshape, invert, scale, rotate, mirror (R165 to R188). The orientation is the
normative one of R173, R175 and R178 (log 4). -/

namespace Sys2Proof.Machine

/-- The pad count `p = (H - n mod H) mod H` (R166). -/
def padCount (n h : Nat) : Nat := (h - n % h) % h

/-- PAD: complete the last line with zero bits; the padded sequence and the pad count (R166). -/
def pad (bits : BitSequence) (h : Nat) : BitSequence × Nat :=
  (bits ++ List.replicate (padCount bits.length h) false, padCount bits.length h)

/-- RESHAPE: `W = len div H` rows of `H` elements, row `r` holding the elements `r*H` to `r*H + H - 1` in order, so that
`A[r][c] = PB[r*H + c]` (R167, R168). -/
def reshape {α : Type} (pb : List α) (h : Nat) : Grid α :=
  (List.range (pb.length / h)).map fun r => (pb.drop (r * h)).take h

/-- INVERT: logical NOT of every bit (R170). -/
def invert (a : Grid BitValue) : Grid BitValue := a.map fun row => row.map fun v => !v

/-- SCALE: 0 becomes 0 and 1 becomes 255 (R171). -/
def scale (i : Grid BitValue) : Grid Pixel := i.map fun row => row.map fun v => if v then 255#8 else 0#8

/-- ROT270 of a grid whose rows have `h` elements: a quarter turn counter-clockwise, `B[i][j] = V[j][h - 1 - i]`; row
`i` of the result is made of the elements `h - 1 - i` of the rows, in order (R173). -/
def rot270 {α : Type} (h : Nat) (v : Grid α) : Grid α :=
  (List.range h).map fun i => v.filterMap fun row => row[h - 1 - i]?

/-- MIRROR: the left-right flip, every row reversed, `M[i][j] = B[i][W - 1 - j]` (R175). -/
def mirror {α : Type} (b : Grid α) : Grid α := b.map List.reverse

/-- ASSEMBLE (R177): ConfigurationError for a height that is not positive (R185), else the frame. -/
def assemble (bits : BitSequence) (h : Nat) : Except ErrKind Frame :=
  if h < 1 then .error .config
  else
    let padded := pad bits h
    .ok
      { grid := mirror (rot270 h (scale (invert (reshape padded.1 h))))
        width := padded.1.length / h
        height := h
        bitCount := bits.length
        padCount := padded.2 }

end Sys2Proof.Machine
end

