-- ==== Sys2Proof/Machine/SessionLoop.lean ====
section
/-! DEFINITION. SessionLoop: FINALIZE and the meanings of the four events (R200 to R220). Every meaning first looks at
RUN: a halted core ignores the event (R201). -/

namespace Sys2Proof.Machine

/-- FINALIZE (R205): assemble the pending bits, emit the grid, clear the accumulator, refresh the timer, back to IDLE.
ASSEMBLE raises only for height 0, which a running core cannot have (R165; log 8). -/
def finalize (now : Nat) (s : State) : State :=
  let s1 := setSt .finalizing s
  match assemble (pendingBits s1) s1.cfg.height with
  | .ok f => setSt .idle (noteActivity now (accReset (out (.emit f) s1)))
  | .error k => raise k s1

/-- The timestamps a POLL computes with are within W_T: `now` and `LA + Q_TICKS` (R157; log 7). -/
def pollTimesFit (now : Nat) (s : State) : Bool := tickFits s.impl now && tickFits s.impl (s.la + s.cfg.qTicks)

/-- POLL (R206): finalize when quiescent and bits are pending, else ask to sleep and change nothing (R207 to R209). -/
def execPoll (now : Nat) (s : State) : Host.Outcome State Fault Refusal :=
  if s.run = false then .next s
  else if pollTimesFit now s = false then .refused .timestampOverflow
  else if quiescent now s && pending s then .next (finalize now s)
  else .next (out (.sleep s.cfg.pTicks) s)

/-- RXB (R204): FEED1, NOTE_ACTIVITY, `ST <- RECEIVING`. It never finalizes (R250). A FEED beyond BS_CAP is refused
(R138). -/
def execRxb (b : RawByte) (now : Nat) (s : State) : Host.Outcome State Fault Refusal :=
  if s.run = false then .next s
  else if tickFits s.impl now = false then .refused .timestampOverflow
  else if bitsFit s.impl (feed1 b s).bs.length = false then .refused .bitStoreFull
  else .next (setSt .receiving (noteActivity now (feed1 b s)))

/-- CANCEL (R210): `RUN <- 0` and `Close`; no error, no grid. -/
def execCancel (s : State) : Host.Outcome State Fault Refusal :=
  if s.run = false then .next s
  else .next (out .close (setRun false s))

/-- RXERR (R211): raise TransportReadFailure. -/
def execRxerr (s : State) : Host.Outcome State Fault Refusal :=
  if s.run = false then .next s
  else .next (raise .transportRead s)

end Sys2Proof.Machine
end

