-- ==== Sys2Proof/Machine/Dispatch.lean ====
section
/-! DEFINITION. Dispatch: one arm per event (R200). -/

namespace Sys2Proof.Machine

def exec (i : Instr) (s : State) : Host.Outcome State Fault Refusal :=
  match i with
  | .poll now => Sys2Proof.Machine.execPoll now s
  | .rxb data now => Sys2Proof.Machine.execRxb data now s
  | .cancel => Sys2Proof.Machine.execCancel s
  | .rxerr => Sys2Proof.Machine.execRxerr s

end Sys2Proof.Machine
end

