-- ==== Sys2Proof/Machine/Port.lean ====
section
/-! DEFINITION. The input side of the core: reset with its configuration inputs (R280 to R284), the next stimulus of
the trace (R41), and the source's polling loop as one environment (R213). -/

namespace Sys2Proof.Machine

/-- The reset values for the given configuration inputs before CFG_OK is looked at (R44). The implementation
parameters, the stimuli to come and the outputs already made are not core state and stay. -/
def resetValues (c : Cfg) (s : State) : State where
  cfg := c
  impl := s.impl
  bb := []
  bs := []
  la := 0
  st := .idle
  run := true
  err := .noError
  input := s.input
  outs := s.outs

/-- Reset in any state (R280, R283): the reset values; with an illegal configuration ConfigurationError is raised, which
halts the core and reports 3 (R243, R282). Nothing is output for the abandoned session. -/
def applyReset (c : Cfg) (s : State) : State :=
  if cfgOk c then resetValues c s else raise .config (resetValues c s)

/-- The next stimulus and the state that has consumed it; none when nothing is presented (R66, R100). -/
def acceptNext (s : State) : Option (Stimulus × State) :=
  match s.input with
  | [] => none
  | x :: rest => some (x, setInput rest s)

/-- Present a stimulus as the next one. -/
def presentFirst (x : Stimulus) (s : State) : State := setInput (x :: s.input) s

/-- What the byte source answers to one turn of the source's loop (R261). -/
inductive SourceAnswer where
  /-- `has_data()` is false. -/
  | noData
  /-- `read_available()` returned this chunk, possibly empty. -/
  | bytes (chunk : List RawByte)
  /-- An I/O error in either call. -/
  | ioError
  deriving DecidableEq, Repr

/-- The events of one turn of the source's loop (R213, R261): a non-empty chunk is RX, no data or an empty read is
POLL (R212), an I/O error is RXERR. -/
def sourceLoopTurn (a : SourceAnswer) (now : Nat) : List Instr :=
  match a with
  | .noData => [.poll now]
  | .bytes [] => [.poll now]
  | .bytes (b :: bs) => rxEvents (b :: bs) now
  | .ioError => [.rxerr]

end Sys2Proof.Machine
end

