-- ==== Sys2Proof/Machine/Step.lean ====
section
/-! DEFINITION. One step: take the next stimulus of the trace and process it whole (R65, R70, R200). -/

namespace Sys2Proof.Machine

/-- One step. With nothing presented the core waits, unchanged (R281, R100; log 6). A reset is applied (R280). An event
word is decoded and its event executed (R200); a reserved word is refused (R96). -/
def step (s : State) : Host.Outcome State Fault Refusal :=
  match acceptNext s with
  | none => .next s
  | some (.reset c, s') => .next (applyReset c s')
  | some (.event w now, s') =>
    match decode w now with
    | .ok i => exec i s'
    | .error (.reservedOp op) => .refused (.reservedEventWord op)

/-- `s` with the event word of the opcode table's `w` presented next, with the timestamp of `decodeTableWord`
(log 11, log 12). -/
def State.withFetchWord (s : State) (nbits w : Nat) : State :=
  presentFirst (.event (tableWord nbits w) tableNow) s

end Sys2Proof.Machine
end

