-- ==== Sys2Proof/Machine/TraceText.lean ====
section
/-! DEFINITION. The text of a trace (R102 to R104): lines, comments, numbers, timestamps, directives and event lines,
read into trace lines. Nothing of the core depends on it. A text that does not follow the notation is `none`. -/

namespace Sys2Proof.Machine

/-- Cut a text at every character for which `p` holds; the pieces in order, empty ones included. -/
def cutWhere (p : Char → Bool) : List Char → List (List Char)
  | [] => [[]]
  | c :: cs =>
    match cutWhere p cs with
    | [] => [[]]
    | piece :: pieces => if p c then [] :: piece :: pieces else (c :: piece) :: pieces

/-- Brackets and commas stand apart from what is beside them. -/
def spaceOut : List Char → List Char
  | [] => []
  | c :: cs => if c = '[' ∨ c = ']' ∨ c = ',' then ' ' :: c :: ' ' :: spaceOut cs else c :: spaceOut cs

/-- The words of a line: `#` starts a comment that runs to the end of the line (R102). -/
def lineWords (line : List Char) : List (List Char) :=
  (cutWhere (fun c => c = ' ' || c = '\t' || c = '\r') (spaceOut (line.takeWhile fun c => c ≠ '#'))).filter
    fun w => w ≠ []

/-- The value of a digit, hexadecimal letters in either case. -/
def digitValue (c : Char) : Option Nat :=
  if '0' ≤ c ∧ c ≤ '9' then some (c.toNat - '0'.toNat)
  else if 'a' ≤ c ∧ c ≤ 'f' then some (c.toNat - 'a'.toNat + 10)
  else if 'A' ≤ c ∧ c ≤ 'F' then some (c.toNat - 'A'.toNat + 10)
  else none

/-- The number written by digits of the given base after what has been read. -/
def readDigits (base : Nat) : Nat → List Char → Option Nat
  | acc, [] => some acc
  | acc, c :: cs =>
    match digitValue c with
    | some d => if d < base then readDigits base (acc * base + d) cs else none
    | none => none

/-- A number: decimal, or hexadecimal with the prefix `0x` (R102). -/
def readNumber : List Char → Option Nat
  | [] => none
  | ['0', 'x'] => none
  | '0' :: 'x' :: ds => readDigits 16 0 ds
  | ds => readDigits 10 0 ds

/-- A timestamp `@t` (R102). -/
def readTime : List Char → Option Nat
  | '@' :: n => readNumber n
  | _ => none

/-- The rest of a bracketed list of numbers after its first number, and what follows the list. -/
def readListTail : List (List Char) → Option (List Nat × List (List Char))
  | [']'] :: rest => some ([], rest)
  | [','] :: n :: rest =>
    match readNumber n, readListTail rest with
    | some b, some (bs, after) => some (b :: bs, after)
    | _, _ => none
  | _ => none

/-- A bracketed list of numbers and its timestamp, the operands of `rx` and `pkt` (R104). -/
def readChunk (ws : List (List Char)) : Option (List Nat × Nat) :=
  let listed : Option (List Nat × List (List Char)) :=
    match ws with
    | ['['] :: [']'] :: rest => some ([], rest)
    | ['['] :: n :: rest =>
      match readNumber n, readListTail rest with
      | some b, some (bs, after) => some (b :: bs, after)
      | _, _ => none
    | _ => none
  match listed with
  | some (bs, [t]) => (readTime t).map fun now => (bs, now)
  | _ => none

/-- The value of the field of that name among the words `name=value` of a `cfg` line: `some none` where it is left
out, `none` where it is written twice or not a number. -/
def cfgField (name : String) (ws : List (List Char)) : Option (Option Nat) :=
  match ws.filter fun w => w.takeWhile (· ≠ '=') = name.toList with
  | [] => some none
  | [w] => (readNumber ((w.dropWhile (· ≠ '=')).drop 1)).map some
  | _ => none

/-- The names a `cfg` line may give (R102). -/
def cfgNames : List String := ["packet_size", "height", "q_ticks", "p_ticks"]

/-- A `cfg` line (R102). -/
def readCfg (ws : List (List Char)) : Option TraceLine :=
  if ws.all fun w => cfgNames.any fun n => w.takeWhile (· ≠ '=') = n.toList then
    match cfgField "packet_size" ws, cfgField "height" ws, cfgField "q_ticks" ws, cfgField "p_ticks" ws with
    | some ps, some h, some q, some p => some (.cfg ps h q p)
    | _, _, _, _ => none
  else none

/-- A line that is not blank, by its words (R102 to R104). -/
def readWords (keyword : List Char) (ws : List (List Char)) : Option TraceLine :=
  if keyword = "cfg".toList then readCfg ws
  else if keyword = "rx".toList then (readChunk ws).map fun (bs, t) => .rx bs t
  else if keyword = "pkt".toList then (readChunk ws).map fun (bs, t) => .pkt bs t
  else
    match ws with
    | [] =>
      if keyword = "reset".toList then some .reset
      else if keyword = "cancel".toList then some .cancel
      else if keyword = "rxerr".toList then some .rxerr
      else none
    | [t] => if keyword = "poll".toList then (readTime t).map .poll else none
    | [b, t] =>
      if keyword = "rxb".toList then
        match readNumber b, readTime t with
        | some n, some now => some (.rxb n now)
        | _, _ => none
      else none
    | _ => none

/-- The trace lines of lines of text, blank lines skipped (R102). -/
def readLines : List (List Char) → Option (List TraceLine)
  | [] => some []
  | line :: lines =>
    match lineWords line with
    | [] => readLines lines
    | keyword :: ws =>
      match readWords keyword ws, readLines lines with
      | some l, some ls => some (l :: ls)
      | _, _ => none

/-- A trace is a sequence of lines (R102). -/
def readTrace (text : String) : Option (List TraceLine) := readLines (cutWhere (· = '\n') text.toList)

end Sys2Proof.Machine
end

