-- ==== Sys2Proof/Machine/Run.lean ====
section
/-! DEFINITION. A run on a list of events: the left fold of the event meanings over the trace (R200), stopping at the
first event that has no meaning; and the same by steps through the stimulus trace. -/

namespace Sys2Proof.Machine

/-- The run of the core on a list of events from state `s` (R200). -/
def runEvents : List Instr → State → Host.Outcome State Fault Refusal
  | [], s => .next s
  | i :: is, s =>
    match exec i s with
    | .next t => runEvents is t
    | .fault r => .fault r
    | .refused r => .refused r

/-- `k` steps from state `s`, stopping at the first that has no meaning. -/
def runSteps : Nat → State → Host.Outcome State Fault Refusal
  | 0, s => .next s
  | k + 1, s =>
    match step s with
    | .next t => runSteps k t
    | .fault r => .fault r
    | .refused r => .refused r

end Sys2Proof.Machine
end

