-- ==== Sys2Proof/Safety.lean ====
section
/-! DEFINITION. The terms in which claims about the core are stated: the invariant of the event boundaries (R27, R45,
R46, R48, R202, R243), the bytes and the emitted frames of a run, and the closed form of the accumulator (R136). -/

namespace Sys2Proof.Machine

/-- An emitted frame is a grid of `height` rows of `width` pixels, each 0 or 255, with fewer than `height` padding bits
and one bit to each pixel (R202, R90, R177). -/
def FrameShape (f : Frame) : Prop :=
  f.grid.length = f.height ∧ (∀ row ∈ f.grid, row.length = f.width ∧ ∀ p ∈ row, p = 0#8 ∨ p = 255#8) ∧
    f.padCount < f.height ∧ f.bitCount + f.padCount = f.width * f.height

/-- What holds of the state at every event boundary. -/
structure BoundaryInv (s : State) : Prop where
  /-- A running core has a legal configuration (R31, R243). -/
  running_cfgOk : s.run = true → cfgOk s.cfg = true
  /-- A running core has recorded no error (R32). -/
  running_noError : s.run = true → s.err = .noError
  /-- ConfigurationError is recorded exactly for an illegal configuration (R32, R282). -/
  config_err_iff : s.err = .config ↔ cfgOk s.cfg = false
  /-- Code 1 is never written by the core (R241). -/
  err_ne_transportOpen : s.err ≠ .transportOpen
  /-- BB is shorter than a packet (R45, R137). -/
  bb_short : cfgOk s.cfg = true → s.bb.length < s.cfg.packetSize
  /-- BS holds whole packets (R46). -/
  bs_whole : (8 * s.cfg.packetSize - 2) ∣ s.bs.length
  /-- FINALIZING is never visible (R48). -/
  st_ne_finalizing : s.st ≠ .finalizing
  /-- IDLE is the state with nothing buffered (R27). -/
  idle_iff_empty : s.st = .idle ↔ s.bb = [] ∧ s.bs = []
  /-- BS is within its capacity (R138). -/
  bs_fits : bitsFit s.impl s.bs.length = true
  /-- Every frame emitted so far has its shape (R202). -/
  frames_shaped : ∀ f, OutAction.emit f ∈ s.outs → FrameShape f

/-- The timestamps and the bit store are unbounded, as they are in the spec's model (R13, R22, R157). -/
def Unbounded (p : Impl) : Prop := p.tsWidth = none ∧ p.bsCap = none

/-- The bytes a list of events presents, in order. -/
def bytesOf : List Instr → List RawByte
  | [] => []
  | .rxb b _ :: is => b :: bytesOf is
  | _ :: is => bytesOf is

/-- The timestamp of the last RXB of a list of events, `t` where there is none. -/
def lastByteTime (t : Nat) : List Instr → Nat
  | [] => t
  | .rxb _ now :: is => lastByteTime now is
  | _ :: is => lastByteTime t is

/-- The frames among output actions, in order. -/
def framesOf : List OutAction → List Frame
  | [] => []
  | .emit f :: as => f :: framesOf as
  | _ :: as => framesOf as

/-- Packet `k` of a byte stream, `x[k*N .. k*N + N)` (R57, R60). -/
def packetAt (n : Nat) (x : List RawByte) (k : Nat) : List RawByte := (x.drop (k * n)).take n

/-- The bits of all whole packets of a byte stream, each packet stripped of its own guards (R118, R136). -/
def packetBits (n : Nat) (x : List RawByte) : BitSequence :=
  (List.range (x.length / n)).flatMap fun k => decodePacket (packetAt n x k)

/-- The bytes of a byte stream that do not fill a packet (R136). -/
def leftover (n : Nat) (x : List RawByte) : List RawByte := x.drop (x.length / n * n)

/-- The pixel in row `i` and column `j`, where the grid has one. -/
def pixelAt {α : Type} (g : Grid α) (i j : Nat) : Option α := (g[i]?).bind fun row => row[j]?

/-- The observation of a run: the output actions, where the run has a meaning (R200). -/
def observation : Host.Outcome State Fault Refusal → Option (List OutAction)
  | .next s => some s.outs
  | .fault _ => none
  | .refused _ => none

end Sys2Proof.Machine
end

