-- ==== Sys2Proof/Certificates/Slice0/Obligations.lean ====
section
/-! DEFINITION. The statements for the provers. -/

open Sys2Proof Sys2Proof.Machine

/-! ### The event word -/

/-- R91 to R97: decoding the word an event is presented with gives the event back, whatever its byte and its
timestamp. -/
def Obligations.DecodeInvertsEncode : Prop :=
  ∀ i : Instr, decode (encode i) (encodeNow i) = .ok i

/-- R91, R97: a word that decodes to an event has the operation code of the event's encoding, and for RXB it is that
encoding; so no bit but an ignored `data` field is dropped. -/
def Obligations.DecodedWordIsTheEncodingUpToIgnoredData : Prop :=
  ∀ (w : EventWord) (now : Nat) (i : Instr), decode w now = .ok i →
    opField (encode i) = opField w ∧
      (∀ (b : RawByte) (t : Nat), i = .rxb b t → encode i = w ∧ encodeNow i = now) ∧
      (∀ t : Nat, i = .poll t → encodeNow i = now)

/-- R92 to R95 and the opcode table: under the mask `0x700` each match value selects its event; RXB's byte is the low
eight bits. -/
def Obligations.DecodeFollowsTheOpcodeTable : Prop :=
  ∀ (w : EventWord) (now : Nat),
    (w &&& 0x700#11 = 0x000#11 → decode w now = .ok (.poll now)) ∧
    (w &&& 0x700#11 = 0x100#11 → decode w now = .ok (.rxb (w.setWidth 8) now)) ∧
    (w &&& 0x700#11 = 0x200#11 → decode w now = .ok .cancel) ∧
    (w &&& 0x700#11 = 0x300#11 → decode w now = .ok .rxerr)

/-- A sanity statement: words of the spec's vectors V51, V58 and programs P1 to P3 decode as listed there. -/
def Obligations.SpecWordsDecode : Prop :=
  decode 0x000 500 = .ok (.poll 500) ∧ decode 0x14A 0 = .ok (.rxb 0x4A 0) ∧ decode 0x1FF 3100 = .ok (.rxb 0xFF 3100) ∧
    decode 0x200 7 = .ok .cancel ∧ decode 0x300 7 = .ok .rxerr ∧
    decode 0x400 0 = .error (.reservedOp 4) ∧ decode 0x7FF 0 = .error (.reservedOp 7)

/-- R97: for every operation but RXB the `data` field is ignored, for CANCEL and RXERR `now` as well, and the trace
notation writes the ignored field 0. -/
def Obligations.IgnoredFieldsDoNotMatter : Prop :=
  (∀ (w w' : EventWord) (now now' : Nat), opField w = opField w' →
    (opField w ≠ 1#3 → decode w now = decode w' now) ∧
    (opField w = 2#3 ∨ opField w = 3#3 → decode w now = decode w' now')) ∧
  ∀ i : Instr, (∀ (b : RawByte) (t : Nat), i ≠ .rxb b t) → dataField (encode i) = 0#8

/-- R96: in a running core a reserved `op` (100 to 111) is refused by name; every other word is an event. -/
def Obligations.ReservedOpIsRefused : Prop :=
  ∀ (w : EventWord) (now : Nat),
    (4 ≤ (opField w).toNat → ∀ (s : State) (rest : List Stimulus), s.run = true → s.input = .event w now :: rest →
      step s = .refused (.reservedEventWord (opField w))) ∧
    ((opField w).toNat < 4 → ∃ i : Instr, decode w now = .ok i)

/-- The model's reading, log 5: a halted core refuses a reserved word as well, because such a word is no event and
R201 speaks of events. -/
def Obligations.HaltedCoreRefusesReservedWords : Prop :=
  ∀ (s : State) (w : EventWord) (now : Nat) (rest : List Stimulus), s.run = false →
    s.input = .event w now :: rest → 4 ≤ (opField w).toNat → step s = .refused (.reservedEventWord (opField w))

/-- R102 to R104: no line of the trace notation can present a word without a meaning. That this holds of ill-formed
traces too, with a byte out of range taken modulo 256, is the model's choice (log 18). -/
def Obligations.TraceNotationPresentsEventsOnly : Prop :=
  ∀ (c : Cfg) (ls : List TraceLine) (w : EventWord) (now : Nat),
    Stimulus.event w now ∈ traceStimuli c ls → ∃ i : Instr, decode w now = .ok i

/-! ### The step and the run -/

/-- R200: when the word presented next decodes to an event, the step takes that stimulus off the trace and is the
event's meaning on the state without it. -/
def Obligations.StepRunsTheDecodedEvent : Prop :=
  ∀ (s : State) (w : EventWord) (now : Nat) (rest : List Stimulus) (i : Instr),
    s.input = .event w now :: rest → decode w now = .ok i → step s = exec i { s with input := rest }

/-- R281 (log 6): while nothing is presented the core waits and nothing changes. -/
def Obligations.StepWithNothingPresentedWaits : Prop :=
  ∀ s : State, s.input = [] → step s = .next s

/-- R200: stepping through a list of presented events is the left fold of the events' meanings. -/
def Obligations.SteppingIsTheFoldOfEvents : Prop :=
  ∀ (es : List Instr) (s : State) (rest : List Stimulus),
    runSteps es.length { s with input := es.map Instr.stimulus ++ rest } =
      runEvents es { s with input := rest }

/-- R71, R202: a step only appends to the output actions, and what it appends is one of the lists the rules give. -/
def Obligations.StepOnlyAppendsOutputs : Prop :=
  ∀ s t : State, step s = .next t → ∃ new : List OutAction, t.outs = s.outs ++ new ∧
    (new = [] ∨ (∃ f : Frame, new = [.emit f]) ∨ new = [.sleep s.cfg.pTicks] ∨ new = [.close] ∨
      new = [.close, .report 2] ∨ new = [.report 3])

/-- R40: no event writes the configuration (nor the implementation parameters, nor the trace to come); a step changes
the configuration only where it applies a reset, and then to the configuration inputs of that reset. -/
def Obligations.OnlyResetWritesTheConfiguration : Prop :=
  (∀ (i : Instr) (s t : State), exec i s = .next t → t.cfg = s.cfg ∧ t.impl = s.impl ∧ t.input = s.input) ∧
  ∀ s t : State, step s = .next t → t.impl = s.impl ∧
    (t.cfg = s.cfg ∨ ∃ (c : Cfg) (rest : List Stimulus), s.input = .reset c :: rest ∧ t.cfg = c)

/-! ### Reset -/

/-- R44: the reset values of every state element, for legal and illegal configuration inputs, from any state; and the
state after reset has them for the default configuration. -/
def Obligations.ResetTakesTheResetState : Prop :=
  (∀ (s : State) (c : Cfg) (rest : List Stimulus), s.input = .reset c :: rest → ∃ t : State,
    step s = .next t ∧ t.cfg = c ∧ t.bb = [] ∧ t.bs = [] ∧ t.la = 0 ∧ t.st = .idle ∧
      (1 ≤ c.packetSize ∧ 1 ≤ c.height → t.run = true ∧ t.err = .noError ∧ t.outs = s.outs) ∧
      (¬(1 ≤ c.packetSize ∧ 1 ≤ c.height) → t.run = false ∧ errCode t.err = 3) ∧
      t.impl = s.impl ∧ t.input = rest) ∧
  State.reset.bb = [] ∧ State.reset.bs = [] ∧ State.reset.la = 0 ∧ State.reset.st = .idle ∧
    State.reset.run = true ∧ State.reset.err = .noError ∧ State.reset.cfg.packetSize = 64 ∧
    State.reset.cfg.height = 510 ∧ State.reset.cfg.qTicks = 900 ∧ State.reset.cfg.pTicks = 100

/-- R282: releasing reset with an illegal configuration outputs the single action `Report(3)` and leaves the core
halted; every later event is ignored. -/
def Obligations.IllegalConfigurationHaltsAtReset : Prop :=
  ∀ (s : State) (c : Cfg) (rest : List Stimulus), s.input = .reset c :: rest → c.packetSize = 0 ∨ c.height = 0 →
    ∃ t : State, step s = .next t ∧ t.run = false ∧ t.err = .config ∧ t.outs = s.outs ++ [.report 3] ∧
      ∀ es : List Instr, runEvents es t = .next t

/-- R201, R49: once RUN is 0 every event leaves the whole state unchanged and outputs nothing. -/
def Obligations.HaltedCoreIgnoresEveryEvent : Prop :=
  ∀ (s : State) (es : List Instr), s.run = false → runEvents es s = .next s

/-! ### RXB -/

/-- R204, R132: RXB appends the byte, and when it is the `N`-th of its packet moves the packet's image bits, in
transmission order, to the end of BS and empties BB; it sets LA to `now` and ST to RECEIVING, and changes nothing
else; QUIESCENT is then false for the next `Q_TICKS` ticks. -/
def Obligations.RxbFeedsOneByteAndRestartsTheTimer : Prop :=
  ∀ (b : RawByte) (now : Nat) (s : State), s.run = true → tickFits s.impl now = true →
    bitsFit s.impl (if s.bb.length + 1 = s.cfg.packetSize then s.bs.length + (8 * s.cfg.packetSize - 2)
      else s.bs.length) = true →
    ∃ t : State, exec (.rxb b now) s = .next t ∧
      t = (if s.bb.length + 1 = s.cfg.packetSize then
          { s with bb := [], la := now, st := .receiving,
                   bs := s.bs ++ (List.range (8 * s.cfg.packetSize - 2)).map (imageBit (s.bb ++ [b])) }
        else { s with bb := s.bb ++ [b], la := now, st := .receiving }) ∧
      ∀ τ : Nat, τ ≤ now + s.cfg.qTicks → quiescent τ t = false

/-- R138: with an unbounded store the byte is always accepted; with a capacity, the byte that completes a packet which
would pass the capacity is refused, and no other byte is. -/
def Obligations.RxbIsRefusedExactlyBeyondCapacity : Prop :=
  ∀ (b : RawByte) (now : Nat) (s : State), s.run = true → tickFits s.impl now = true →
    (s.impl.bsCap = none → ∃ t : State, exec (.rxb b now) s = .next t) ∧
    (∀ cap : Nat, s.impl.bsCap = some cap → s.bs.length ≤ cap →
      (exec (.rxb b now) s = .refused .bitStoreFull ↔
        s.bb.length + 1 = s.cfg.packetSize ∧ cap < s.bs.length + (8 * s.cfg.packetSize - 2)))

/-- The model's reading of R157 and U5, log 7: with a finite `W_T` a running core refuses a timestamp that does not
fit, for RXB its `now`, for POLL its `now` and `LA + Q_TICKS`. -/
def Obligations.TimestampsBeyondTheirWidthAreRefused : Prop :=
  ∀ (s : State) (w : Nat) (now : Nat) (b : RawByte), s.run = true → s.impl.tsWidth = some w →
    (2 ^ w ≤ now → exec (.rxb b now) s = .refused .timestampOverflow) ∧
    (2 ^ w ≤ now ∨ 2 ^ w ≤ s.la + s.cfg.qTicks → exec (.poll now) s = .refused .timestampOverflow)

/-! ### POLL -/

/-- R207, R208 and the no-op cases of R206 and R209: a POLL that is not quiescent, or with no bits pending, changes no
state and outputs `Sleep(P_TICKS)`. -/
def Obligations.PollWithoutFinalizationOnlySleeps : Prop :=
  ∀ (now : Nat) (s : State), s.run = true → pollTimesFit now s = true →
    now ≤ s.la + s.cfg.qTicks ∨ s.bs = [] →
    exec (.poll now) s = .next { s with outs := s.outs ++ [.sleep s.cfg.pTicks] }

/-- R205, R206: a quiescent POLL with bits pending emits exactly one frame, made of the whole of BS as R177 and R178
say, clears BB and BS, sets LA to `now` and ST to IDLE, and changes nothing else; the pad count is positive exactly when
the number of bits is no multiple of the height; and at every event boundary the frame has at least six bits and one
column. -/
def Obligations.QuiescentPollEmitsTheFrame : Prop :=
  ∀ (now : Nat) (s : State), s.run = true → pollTimesFit now s = true → 1 ≤ s.cfg.height → s.bs ≠ [] →
    s.la + s.cfg.qTicks < now →
    ∃ f : Frame,
      exec (.poll now) s =
        .next { s with bb := [], bs := [], la := now, st := .idle, outs := s.outs ++ [.emit f] } ∧
      FrameShape f ∧ f.height = s.cfg.height ∧ f.bitCount = s.bs.length ∧
      f.width = (s.bs.length + s.cfg.height - 1) / s.cfg.height ∧
      (∀ i j : Nat, i < s.cfg.height → j < f.width →
        pixelAt f.grid i j =
          some (if s.bs.getD ((f.width - 1 - j) * s.cfg.height + (s.cfg.height - 1 - i)) false then 0#8 else 255#8)) ∧
      (1 ≤ f.padCount ↔ s.bs.length % s.cfg.height ≠ 0) ∧
      (BoundaryInv s → 6 ≤ f.bitCount ∧ 1 ≤ f.width)

/-- R215: after a finalizing POLL both stores are empty, LA is its `now` and ST is IDLE, and a POLL right after it, at
any timestamp, emits nothing. -/
def Obligations.PollAfterFinalizationEmitsNothing : Prop :=
  ∀ (now : Nat) (s t : State) (f : Frame), BoundaryInv s → exec (.poll now) s = .next t → t.outs = s.outs ++ [.emit f] →
    t.bb = [] ∧ t.bs = [] ∧ t.la = now ∧ t.st = .idle ∧
      ∀ (now' : Nat) (u : State), exec (.poll now') t = .next u → u.outs = t.outs ++ [.sleep t.cfg.pTicks]

/-- R152, R153: the comparison on naturals is the comparison of the real numbers `now - LA > threshold`, the clock
going backwards included. -/
def Obligations.QuiescenceIsTheRealComparison : Prop :=
  ∀ (now thr : Nat) (s : State),
    (isQuiescent now thr s = true ↔ (now : Int) - (s.la : Int) > (thr : Int)) ∧
    (now < s.la → isQuiescent now thr s = false)

/-! ### CANCEL and RXERR -/

/-- R210: CANCEL in a running core clears RUN and outputs `Close`; nothing else changes, ERR included; no event after
it has any effect, so no grid is ever emitted. -/
def Obligations.CancelHaltsAndReleases : Prop :=
  ∀ s : State, s.run = true → ∃ t : State, exec .cancel s = .next t ∧
    t = { s with run := false, outs := s.outs ++ [.close] } ∧ ∀ es : List Instr, runEvents es t = .next t

/-- R211, R253: RXERR in a running core records code 2, clears RUN, and outputs `Close` and then `Report(2)`; nothing
else changes; no event after it has any effect. -/
def Obligations.RxerrRaisesTheReadFailure : Prop :=
  ∀ s : State, s.run = true → ∃ t : State, exec .rxerr s = .next t ∧
    t = { s with run := false, err := .transportRead, outs := s.outs ++ [.close, .report 2] } ∧
    statusErr t = 2 ∧ ∀ es : List Instr, runEvents es t = .next t

/-- R255: an event that takes RUN from 1 to 0 outputs exactly one `Close`, and no other event outputs one. -/
def Obligations.CloseExactlyWhenTheLoopEnds : Prop :=
  ∀ (i : Instr) (s t : State), BoundaryInv s → exec i s = .next t →
    t.outs.count .close = s.outs.count .close + (if s.run = true ∧ t.run = false then 1 else 0)

/-! ### The session loop -/

/-- R203: the transitions of ST in a running core; and IDLE with bits pending cannot occur. -/
def Obligations.LoopStateFollowsTheTransitionTable : Prop :=
  ∀ (s t : State), BoundaryInv s → s.run = true →
    (∀ (b : RawByte) (now : Nat), exec (.rxb b now) s = .next t → t.st = .receiving) ∧
    (∀ now : Nat, exec (.poll now) s = .next t →
      t.st = if quiescent now s = true ∧ pending s = true then .idle else s.st) ∧
    (exec .cancel s = .next t → t.st = s.st) ∧ (exec .rxerr s = .next t → t.st = s.st) ∧
    (s.st = .idle → pending s = false)

/-- The state after reset meets the invariant (R27, R45, R46, R48). -/
def Obligations.ResetMeetsTheInvariant : Prop := BoundaryInv State.reset

/-- R27, R45, R46, R48, R202, R241, R243: every step keeps the invariant of the event boundaries, from every state that
meets it and for every stimulus, a reset with any configuration included. -/
def Obligations.StepKeepsTheInvariant : Prop :=
  ∀ s t : State, BoundaryInv s → step s = .next t → BoundaryInv t

/-- R47: while no bit is pending the value of LA cannot influence any output, whatever events follow; W_T unbounded as
in the spec's model. -/
def Obligations.TimestampWithoutPendingBitsIsUnobservable : Prop :=
  ∀ (es : List Instr) (s : State) (a : Nat), s.bs = [] → s.impl.tsWidth = none →
    observation (runEvents es { s with la := a }) = observation (runEvents es s)

/-- R214: POLL events alone output only `Sleep` actions and never change the state; and no frame is emitted before `N`
bytes have been presented since the accumulator was empty. -/
def Obligations.NoByteNoFrame : Prop :=
  (∀ (s : State) (ts : List Nat), s.run = true → s.bs = [] → s.impl.tsWidth = none →
    runEvents (ts.map .poll) s =
      .next { s with outs := s.outs ++ List.replicate ts.length (.sleep s.cfg.pTicks) }) ∧
  ∀ (s t : State) (es : List Instr), BoundaryInv s → s.bb = [] → s.bs = [] → runEvents es s = .next t →
    (bytesOf es).length < s.cfg.packetSize → framesOf t.outs = framesOf s.outs

/-- R219: at most one `Emit` per event, a POLL alone, and over a run from an empty accumulator at most one for every
`N` bytes presented. -/
def Obligations.FramesAreBoundedByPackets : Prop :=
  (∀ (i : Instr) (s t : State), exec i s = .next t →
    (framesOf t.outs).length ≤ (framesOf s.outs).length + 1 ∧
    ((∀ now : Nat, i ≠ .poll now) → framesOf t.outs = framesOf s.outs)) ∧
  ∀ (s t : State) (es : List Instr), BoundaryInv s → s.bb = [] → s.bs = [] → runEvents es s = .next t →
    ((framesOf t.outs).length - (framesOf s.outs).length) * s.cfg.packetSize ≤ (bytesOf es).length

/-- R216: the frame a POLL emits is ASSEMBLE of the bits of the whole packets of the bytes presented since the
accumulator was empty: no timestamp, no chunking and no POLL in between matters; at least one packet is whole. -/
def Obligations.FrameDependsOnlyOnTheBytes : Prop :=
  ∀ (s t u : State) (es : List Instr) (now : Nat) (f : Frame), BoundaryInv s → s.bb = [] → s.bs = [] →
    runEvents es s = .next t → framesOf t.outs = framesOf s.outs →
    exec (.poll now) t = .next u → u.outs = t.outs ++ [.emit f] →
    assemble (packetBits s.cfg.packetSize (bytesOf es)) s.cfg.height = .ok f ∧
      1 ≤ (bytesOf es).length / s.cfg.packetSize

/-- R217: a POLL finalizes exactly when the core runs, at least `N` bytes have been presented since the accumulator was
empty, and more than `Q_TICKS` have passed since the most recent RXB. -/
def Obligations.PollFinalizesExactlyWhen : Prop :=
  ∀ (s t : State) (es : List Instr) (now : Nat), BoundaryInv s → s.bb = [] → s.bs = [] → Unbounded s.impl →
    runEvents es s = .next t → framesOf t.outs = framesOf s.outs →
    ((∃ f : Frame, exec (.poll now) t =
        .next { t with bb := [], bs := [], la := now, st := .idle, outs := t.outs ++ [.emit f] }) ↔
      t.run = true ∧ s.cfg.packetSize ≤ (bytesOf es).length ∧ lastByteTime s.la es + s.cfg.qTicks < now)

/-! ### BitDecoder -/

/-- R110, R115: REV8 moves bit `7 - j` to bit `j`; it is its own inverse and so a bijection on bytes. -/
def Obligations.ReverseByteIsAnInvolution : Prop :=
  (∀ (b : RawByte) (j : Nat), j < 8 → (rev8 b).getLsbD j = b.getLsbD (7 - j)) ∧
    (∀ b : RawByte, rev8 (rev8 b) = b) ∧ Function.Bijective rev8

/-- R113, R81: the stream of a packet has eight bits to a byte, and bit `w` of it is bit `w mod 8` of byte
`w div 8`. -/
def Obligations.StreamBitIsTheWireBit : Prop :=
  ∀ pkt : List RawByte, (stream pkt).length = 8 * pkt.length ∧
    ∀ w : Nat, w < 8 * pkt.length → (stream pkt)[w]? = some (wireBit pkt w)

/-- R87, R116: DECODE of a packet of `N ≥ 1` bytes has `8N - 2` bits, and bit `k` is
`pkt[(k + 1) div 8][(k + 1) mod 8]`. -/
def Obligations.DecodedBitIsTheImageBit : Prop :=
  ∀ pkt : List RawByte, 1 ≤ pkt.length → (decodePacket pkt).length = 8 * pkt.length - 2 ∧
    ∀ k : Nat, k ≤ 8 * pkt.length - 3 →
      (decodePacket pkt)[k]? = some ((pkt.getD ((k + 1) / 8) 0).getLsbD ((k + 1) % 8))

/-- R117: two packets that differ at most in their two guard bits decode alike. -/
def Obligations.DecodeDoesNotSeeTheGuards : Prop :=
  ∀ pkt pkt' : List RawByte, 1 ≤ pkt.length → pkt.length = pkt'.length →
    (∀ m j : Nat, m < pkt.length → j < 8 → ¬(m = 0 ∧ j = 0) → ¬(m = pkt.length - 1 ∧ j = 7) →
      (pkt.getD m 0).getLsbD j = (pkt'.getD m 0).getLsbD j) →
    decodePacket pkt = decodePacket pkt'

/-- R120, R89: from the decoded bits and the two guard values the packet is recovered, and every choice of image bits
and guards is a packet that decodes to those image bits. -/
def Obligations.PacketIsItsGuardsAndImageBits : Prop :=
  (∀ pkt : List RawByte, 1 ≤ pkt.length →
    packPacket pkt.length
      ([wireBit pkt 0] ++ decodePacket pkt ++ [wireBit pkt (8 * pkt.length - 1)]) = pkt) ∧
  ∀ (n : Nat) (gl gt : BitValue) (bits : BitSequence), 1 ≤ n → bits.length = 8 * n - 2 →
    decodePacket (packPacket n ([gl] ++ bits ++ [gt])) = bits

/-! ### StreamAccumulator -/

/-- R136, R137: FEED leaves in BB the bytes that fill no packet and appends to BS the bits of every whole packet, each
stripped of its own guards; nothing else changes, and the lengths are as stated. -/
def Obligations.FeedClosedForm : Prop :=
  ∀ (x : List RawByte) (s : State), 1 ≤ s.cfg.packetSize →
    feed x s = { s with bb := leftover s.cfg.packetSize (s.bb ++ x)
                        bs := s.bs ++ packetBits s.cfg.packetSize (s.bb ++ x) } ∧
    (feed x s).bb.length = (s.bb ++ x).length % s.cfg.packetSize ∧
    (feed x s).bb.length < s.cfg.packetSize ∧
    (feed x s).bs.length = s.bs.length + (s.bb ++ x).length / s.cfg.packetSize * (8 * s.cfg.packetSize - 2)

/-- R134, R132: feeding two chunks is feeding their concatenation, and with less than a packet buffered feeding a chunk
is feeding its bytes one by one. -/
def Obligations.ChunkingDoesNotMatter : Prop :=
  ∀ (a b : List RawByte) (s : State), 1 ≤ s.cfg.packetSize →
    feed (a ++ b) s = feed b (feed a s) ∧
    (s.bb.length < s.cfg.packetSize → feed a s = a.foldl (fun u y => feed1 y u) s)

/-- R212: a non-empty chunked read, presented as one RXB per byte, has the net effect of FEED, NOTE_ACTIVITY and
`ST <- RECEIVING`; an empty one is no event, and the environment presents POLL instead. -/
def Obligations.ChunkedReadIsItsBytes : Prop :=
  (∀ (chunk : List RawByte) (now : Nat) (s : State), chunk ≠ [] → s.run = true → 1 ≤ s.cfg.packetSize →
    s.bb.length < s.cfg.packetSize → tickFits s.impl now = true → bitsFit s.impl (feed chunk s).bs.length = true →
    runEvents (rxEvents chunk now) s = .next { feed chunk s with la := now, st := .receiving }) ∧
  ∀ now : Nat, rxEvents [] now = [] ∧ sourceLoopTurn (.bytes []) now = [.poll now]

/-! ### ImageAssembler -/

/-- R166: PAD keeps every bit, appends `p < H` zero bits, reaches a multiple of `H`, and pads nothing exactly when the
length is one already. -/
def Obligations.PadCompletesTheLastLine : Prop :=
  ∀ (bits : BitSequence) (h : Nat), 1 ≤ h →
    (pad bits h).2 < h ∧ (pad bits h).1.length = bits.length + (pad bits h).2 ∧ (pad bits h).1.length % h = 0 ∧
    (pad bits h).1 = bits ++ List.replicate (pad bits h).2 false ∧
    ((pad bits h).2 = 0 ↔ bits.length % h = 0) ∧
    (0 < bits.length → bits.length < h → (pad bits h).2 = h - bits.length)

/-- R167, R179: the width is the padded length over the height, exactly, which is the number of bits over the height
rounded up; the grid has `H` rows of `W` pixels. -/
def Obligations.FrameDimensions : Prop :=
  ∀ (bits : BitSequence) (h : Nat) (f : Frame), assemble bits h = .ok f →
    f.width * h = (pad bits h).1.length ∧ f.width = (bits.length + h - 1) / h ∧ (f.width = 0 ↔ bits = []) ∧
    f.height = h ∧ f.grid.length = h ∧ (∀ row ∈ f.grid, row.length = f.width) ∧
    (reshape (pad bits h).1 h).length = f.width ∧ ∀ row ∈ reshape (pad bits h).1 h, row.length = h

/-- R168: RESHAPE puts the element at flat index `i` at position `(i div H, i mod H)`. -/
def Obligations.ReshapeIndexMap : Prop :=
  ∀ (pb : BitSequence) (h : Nat), 1 ≤ h → pb.length % h = 0 →
    (reshape pb h).length = pb.length / h ∧
    (∀ i : Nat, i < pb.length → pixelAt (reshape pb h) (i / h) (i % h) = pb[i]?) ∧
    ∀ r c : Nat, r < pb.length / h → c < h → pixelAt (reshape pb h) r c = pb[r * h + c]?

/-- R173, R175: the index maps of the quarter turn counter-clockwise and of the left-right flip, and the flip is its
own inverse. -/
def Obligations.RotationAndMirrorIndexMaps : Prop :=
  (∀ (h : Nat) (v : Grid Pixel) (i j : Nat), (∀ row ∈ v, row.length = h) → i < h → j < v.length →
    pixelAt (rot270 h v) i j = pixelAt v j (h - 1 - i)) ∧
  (∀ (w : Nat) (b : Grid Pixel) (i j : Nat), (∀ row ∈ b, row.length = w) → j < w →
    pixelAt (mirror b) i j = pixelAt b i (w - 1 - j)) ∧
  ∀ b : Grid Pixel, mirror (mirror b) = b

/-- R178: the closed form of the emitted grid, in both directions, and the reflection about the anti-diagonal that
rotation and mirroring make together. -/
def Obligations.GridClosedForm : Prop :=
  (∀ (bits : BitSequence) (h : Nat) (f : Frame), assemble bits h = .ok f →
    (∀ i j : Nat, i < h → j < f.width → pixelAt f.grid i j =
      some (if (pad bits h).1.getD ((f.width - 1 - j) * h + (h - 1 - i)) false then 0#8 else 255#8)) ∧
    ∀ k : Nat, k < (pad bits h).1.length → pixelAt f.grid (h - 1 - k % h) (f.width - 1 - k / h) =
      some (if (pad bits h).1.getD k false then 0#8 else 255#8)) ∧
  ∀ (h : Nat) (v : Grid Pixel) (i j : Nat), (∀ row ∈ v, row.length = h) → i < h → j < v.length →
    pixelAt (mirror (rot270 h v)) i j = pixelAt v (v.length - 1 - j) (h - 1 - i)

/-- R180: the padding bits become the top `p` pixels of the leftmost column, each of value 255. -/
def Obligations.PaddingLandsTopLeft : Prop :=
  ∀ (bits : BitSequence) (h : Nat) (f : Frame), assemble bits h = .ok f →
    ∀ k : Nat, k < f.padCount → pixelAt f.grid k 0 = some 255#8

/-- R182: a length that is a multiple of the height is not padded and gives the exact width; and assembling the padded
sequence gives the same grid and dimensions, only the two counts differing. -/
def Obligations.PaddingIsIdempotent : Prop :=
  ∀ (bits : BitSequence) (h : Nat) (f : Frame), assemble bits h = .ok f →
    (bits.length % h = 0 → f.padCount = 0 ∧ f.width = bits.length / h ∧ f.width * h = bits.length) ∧
    assemble (pad bits h).1 h = .ok { f with bitCount := f.bitCount + f.padCount, padCount := 0 }

/-- R183: an empty sequence assembles to `H` rows of no pixels. -/
def Obligations.EmptySequenceAssembles : Prop :=
  ∀ h : Nat, 1 ≤ h → assemble [] h =
    .ok { grid := List.replicate h [], width := 0, height := h, bitCount := 0, padCount := 0 }

/-- R184: the value steps commute with the orientation steps; the order of rotation and mirroring between themselves
matters. -/
def Obligations.ValueStepsCommuteWithOrientation : Prop :=
  (∀ (h : Nat) (a : Grid BitValue),
    scale (invert (mirror (rot270 h a))) = mirror (rot270 h (scale (invert a))) ∧
    scale (mirror (rot270 h (invert a))) = mirror (rot270 h (scale (invert a)))) ∧
  ∃ a : Grid BitValue, (∀ row ∈ a, row.length = 2) ∧ mirror (rot270 2 a) ≠ rot270 2 (mirror a)

/-- R185, R165: ASSEMBLE raises ConfigurationError for height 0 and for no other height, so never in a running core
that meets the invariant. -/
def Obligations.AssembleFailsOnlyForHeightZero : Prop :=
  (∀ (bits : BitSequence) (h : Nat) (k : ErrKind), assemble bits h = .error k ↔ h = 0 ∧ k = .config) ∧
  ∀ s : State, BoundaryInv s → s.run = true → ∃ f : Frame, assemble (pendingBits s) s.cfg.height = .ok f
end

