-- ==== Sys2Proof/Laws/BitDecoder.lean ====
section
/-! SUPPORT. The bits of a byte and of a stream, by index (R112, R113). -/

namespace Sys2Proof.Machine

/-- Reversing a byte and emitting it most significant bit first is emitting it least significant bit first (R112). -/
theorem byteBits_eq (b : RawByte) :
    byteBits b = [b.getLsbD 0, b.getLsbD 1, b.getLsbD 2, b.getLsbD 3,
      b.getLsbD 4, b.getLsbD 5, b.getLsbD 6, b.getLsbD 7] := by
  revert b; decide

@[simp] theorem byteBits_length (b : RawByte) : (byteBits b).length = 8 := by simp [byteBits_eq]

@[simp] theorem stream_nil : stream [] = [] := rfl

@[simp] theorem stream_cons (b : RawByte) (pkt : List RawByte) : stream (b :: pkt) = byteBits b ++ stream pkt := rfl

@[simp] theorem stream_length (pkt : List RawByte) : (stream pkt).length = 8 * pkt.length := by
  induction pkt with
  | nil => rfl
  | cons b pkt ih => simp [ih]; omega

theorem byteBits_getElem? (b : RawByte) {j : Nat} (hj : j < 8) : (byteBits b)[j]? = some (b.getLsbD j) := by
  rw [byteBits_eq]
  interval_cases j <;> rfl

@[simp] theorem decodePacket_length (pkt : List RawByte) : (decodePacket pkt).length = 8 * pkt.length - 2 := by
  simp [decodePacket]; omega

end Sys2Proof.Machine
end

