-- ==== Sys2Proof/Laws/Decode.lean ====
section
/-! SUPPORT. The fields of an event word, which trace lines present events, and what the decoder and the step can answer, said once. -/

namespace Sys2Proof

theorem opField_eventWord (op : BitVec 3) (b : RawByte) : Machine.opField (Machine.eventWord op b) = op := by
  revert op b
  decide +kernel

theorem dataField_eventWord (op : BitVec 3) (b : RawByte) : Machine.dataField (Machine.eventWord op b) = b := by
  revert op b
  decide +kernel

/-- A word is its two fields (R91). -/
theorem eventWord_fields (w : EventWord) : Machine.eventWord (Machine.opField w) (Machine.dataField w) = w := by
  revert w
  decide +kernel

/-- What the decoder answers, by the operation code. -/
theorem decode_cases (w : EventWord) (now : Nat) :
    (Machine.opField w = 0 ∧ decode w now = .ok (.poll now)) ∨
    (Machine.opField w = 1 ∧ decode w now = .ok (.rxb (Machine.dataField w) now)) ∨
    (Machine.opField w = 2 ∧ decode w now = .ok .cancel) ∨
    (Machine.opField w = 3 ∧ decode w now = .ok .rxerr) ∨
    (4 ≤ (Machine.opField w).toNat ∧ decode w now = .error (.reservedOp (Machine.opField w))) := by
  have hop : ∀ o : BitVec 3, o = 0 ∨ o = 1 ∨ o = 2 ∨ o = 3 ∨ o = 4 ∨ o = 5 ∨ o = 6 ∨ o = 7 := by decide
  unfold decode
  rcases hop (Machine.opField w) with h | h | h | h | h | h | h | h <;> simp [h]

/-- A line presents an event exactly when it is an event line (R103, R104). -/
theorem isEvent_eq_presents (l : TraceLine) : l.isEvent = !(traceLineEvents l).isEmpty := by
  cases l <;> simp [TraceLine.isEvent, traceLineEvents, rxEvents]

/-- A line that is no event line carries no timestamp. -/
theorem time_of_not_isEvent {l : TraceLine} (h : l.isEvent = false) : l.time = none := by
  cases l <;> simp_all [TraceLine.isEvent, TraceLine.time]

/-- A byte in range (R105) is presented unchanged. -/
theorem lineByte_toNat {b : Nat} (h : b ≤ 255) : (lineByte b).toNat = b := by
  simp only [lineByte, BitVec.toNat_ofNat]
  omega

namespace Machine

/-- What a step that answers a next state has done: waited, applied a reset, or run an event. -/
theorem step_next {s t : State} (h : step s = .next t) :
    (s.input = [] ∧ t = s) ∨
    (∃ (c : Cfg) (rest : List Stimulus), s.input = .reset c :: rest ∧ t = applyReset c (setInput rest s)) ∨
    ∃ (w : EventWord) (now : Nat) (rest : List Stimulus) (i : Instr),
      s.input = .event w now :: rest ∧ decode w now = .ok i ∧ exec i (setInput rest s) = .next t := by
  rcases hi : s.input with _ | ⟨x, rest⟩
  · simp only [step, acceptNext, hi, Host.Outcome.next.injEq] at h
    exact .inl ⟨rfl, h.symm⟩
  · rcases x with ⟨w, now⟩ | c
    · rcases hd : decode w now with e | i
      · obtain ⟨op⟩ := e
        simp [step, acceptNext, hi, hd] at h
      · simp only [step, acceptNext, hi, hd] at h
        exact .inr (.inr ⟨w, now, rest, i, rfl, hd, h⟩)
    · simp only [step, acceptNext, hi, Host.Outcome.next.injEq] at h
      exact .inr (.inl ⟨c, rest, rfl, h.symm⟩)

end Machine

end Sys2Proof
end

