-- ==== Sys2Proof/Laws/Grid.lean ====
section
/-! SUPPORT. The grids of the assembler: lengths, and the element at a position (R166 to R175). -/

namespace Sys2Proof.Machine

theorem padCount_lt {n h : Nat} (hh : 1 ≤ h) : padCount n h < h := Nat.mod_lt _ (by omega)

/-- The padded length is a multiple of the height (R166). -/
theorem dvd_add_padCount {n h : Nat} (hh : 1 ≤ h) : h ∣ n + padCount n h := by
  have hm := Nat.mod_lt n (show 0 < h by omega)
  have hd := Nat.div_add_mod n h
  unfold padCount
  rcases Nat.eq_zero_or_pos (n % h) with h0 | hp
  · simp only [h0, Nat.sub_zero, Nat.mod_self, Nat.add_zero]
    exact Nat.dvd_of_mod_eq_zero h0
  · rw [Nat.mod_eq_of_lt (by omega : h - n % h < h)]
    exact ⟨n / h + 1, by rw [Nat.mul_add]; omega⟩

@[simp] theorem pad_length (bits : BitSequence) (h : Nat) :
    (pad bits h).1.length = bits.length + padCount bits.length h := by
  simp [pad]

@[simp] theorem pad_snd (bits : BitSequence) (h : Nat) : (pad bits h).2 = padCount bits.length h := rfl

@[simp] theorem reshape_length {α : Type} (pb : List α) (h : Nat) : (reshape pb h).length = pb.length / h := by
  simp [reshape]

@[simp] theorem mirror_length {α : Type} (g : Grid α) : (mirror g).length = g.length := by simp [mirror]

@[simp] theorem rot270_length {α : Type} (h : Nat) (v : Grid α) : (rot270 h v).length = h := by simp [rot270]

/-- Every row of the reshaped array has `h` elements. -/
theorem reshape_row_length {α : Type} {pb : List α} {h : Nat} {row : List α} (hr : row ∈ reshape pb h) :
    row.length = h := by
  simp only [reshape, List.mem_map, List.mem_range] at hr
  obtain ⟨r, hlt, rfl⟩ := hr
  have h1 : (r + 1) * h ≤ pb.length / h * h := Nat.mul_le_mul_right h hlt
  have h2 := Nat.div_mul_le_self pb.length h
  rw [Nat.add_mul] at h1
  simp only [List.length_take, List.length_drop]
  omega

/-- Picking one element of every row, where every row has it, gives one element per row. -/
theorem filterMap_getElem?_eq {α : Type} (v : Grid α) (c : Nat) (hv : ∀ row ∈ v, c < row.length) (j : Nat) :
    (v.filterMap fun row => row[c]?)[j]? = pixelAt v j c := by
  induction v generalizing j with
  | nil => simp [pixelAt]
  | cons row v ih =>
    have hc := hv row (by simp)
    have ih' := ih (fun r hr => hv r (by simp [hr]))
    rw [List.filterMap_cons_some (f := fun row : List α => row[c]?) (List.getElem?_eq_getElem hc)]
    cases j with
    | zero => simp [pixelAt, hc]
    | succ j => simpa [pixelAt] using ih' j

theorem filterMap_getElem?_length {α : Type} (v : Grid α) (c : Nat) (hv : ∀ row ∈ v, c < row.length) :
    (v.filterMap fun row => row[c]?).length = v.length := by
  induction v with
  | nil => rfl
  | cons row v ih =>
    have hc := hv row (by simp)
    rw [List.filterMap_cons_some (f := fun row : List α => row[c]?) (List.getElem?_eq_getElem hc)]
    simpa using ih (fun r hr => hv r (by simp [hr]))

end Sys2Proof.Machine
end

