-- ==== Sys2Proof/Laws/State.lean ====
section
/-! SUPPORT. One lemma per field and update of the state, each true by computation, so that no later proof unfolds an
update. -/

namespace Sys2Proof.Machine

section

variable (chunk : List RawByte) (s : State)

@[simp] theorem bbAppend_cfg : (bbAppend chunk s).cfg = s.cfg := rfl
@[simp] theorem bbAppend_impl : (bbAppend chunk s).impl = s.impl := rfl
@[simp] theorem bbAppend_bb : (bbAppend chunk s).bb = s.bb ++ chunk := rfl
@[simp] theorem bbAppend_bs : (bbAppend chunk s).bs = s.bs := rfl
@[simp] theorem bbAppend_la : (bbAppend chunk s).la = s.la := rfl
@[simp] theorem bbAppend_st : (bbAppend chunk s).st = s.st := rfl
@[simp] theorem bbAppend_run : (bbAppend chunk s).run = s.run := rfl
@[simp] theorem bbAppend_err : (bbAppend chunk s).err = s.err := rfl
@[simp] theorem bbAppend_input : (bbAppend chunk s).input = s.input := rfl
@[simp] theorem bbAppend_outs : (bbAppend chunk s).outs = s.outs := rfl

end

section

variable (b : RawByte) (s : State)

@[simp] theorem bbPush_cfg : (bbPush b s).cfg = s.cfg := rfl
@[simp] theorem bbPush_impl : (bbPush b s).impl = s.impl := rfl
@[simp] theorem bbPush_bb : (bbPush b s).bb = s.bb ++ [b] := rfl
@[simp] theorem bbPush_bs : (bbPush b s).bs = s.bs := rfl
@[simp] theorem bbPush_la : (bbPush b s).la = s.la := rfl
@[simp] theorem bbPush_st : (bbPush b s).st = s.st := rfl
@[simp] theorem bbPush_run : (bbPush b s).run = s.run := rfl
@[simp] theorem bbPush_err : (bbPush b s).err = s.err := rfl
@[simp] theorem bbPush_input : (bbPush b s).input = s.input := rfl
@[simp] theorem bbPush_outs : (bbPush b s).outs = s.outs := rfl

end

section

variable (bits : BitSequence) (s : State)

@[simp] theorem bsAppend_cfg : (bsAppend bits s).cfg = s.cfg := rfl
@[simp] theorem bsAppend_impl : (bsAppend bits s).impl = s.impl := rfl
@[simp] theorem bsAppend_bb : (bsAppend bits s).bb = s.bb := rfl
@[simp] theorem bsAppend_bs : (bsAppend bits s).bs = s.bs ++ bits := rfl
@[simp] theorem bsAppend_la : (bsAppend bits s).la = s.la := rfl
@[simp] theorem bsAppend_st : (bsAppend bits s).st = s.st := rfl
@[simp] theorem bsAppend_run : (bsAppend bits s).run = s.run := rfl
@[simp] theorem bsAppend_err : (bsAppend bits s).err = s.err := rfl
@[simp] theorem bsAppend_input : (bsAppend bits s).input = s.input := rfl
@[simp] theorem bsAppend_outs : (bsAppend bits s).outs = s.outs := rfl

end

section

variable (s : State)

@[simp] theorem accReset_cfg : (accReset s).cfg = s.cfg := rfl
@[simp] theorem accReset_impl : (accReset s).impl = s.impl := rfl
@[simp] theorem accReset_bb : (accReset s).bb = [] := rfl
@[simp] theorem accReset_bs : (accReset s).bs = [] := rfl
@[simp] theorem accReset_la : (accReset s).la = s.la := rfl
@[simp] theorem accReset_st : (accReset s).st = s.st := rfl
@[simp] theorem accReset_run : (accReset s).run = s.run := rfl
@[simp] theorem accReset_err : (accReset s).err = s.err := rfl
@[simp] theorem accReset_input : (accReset s).input = s.input := rfl
@[simp] theorem accReset_outs : (accReset s).outs = s.outs := rfl

end

section

variable (now : Nat) (s : State)

@[simp] theorem noteActivity_cfg : (noteActivity now s).cfg = s.cfg := rfl
@[simp] theorem noteActivity_impl : (noteActivity now s).impl = s.impl := rfl
@[simp] theorem noteActivity_bb : (noteActivity now s).bb = s.bb := rfl
@[simp] theorem noteActivity_bs : (noteActivity now s).bs = s.bs := rfl
@[simp] theorem noteActivity_la : (noteActivity now s).la = now := rfl
@[simp] theorem noteActivity_st : (noteActivity now s).st = s.st := rfl
@[simp] theorem noteActivity_run : (noteActivity now s).run = s.run := rfl
@[simp] theorem noteActivity_err : (noteActivity now s).err = s.err := rfl
@[simp] theorem noteActivity_input : (noteActivity now s).input = s.input := rfl
@[simp] theorem noteActivity_outs : (noteActivity now s).outs = s.outs := rfl

end

section

variable (v : LoopState) (s : State)

@[simp] theorem setSt_cfg : (setSt v s).cfg = s.cfg := rfl
@[simp] theorem setSt_impl : (setSt v s).impl = s.impl := rfl
@[simp] theorem setSt_bb : (setSt v s).bb = s.bb := rfl
@[simp] theorem setSt_bs : (setSt v s).bs = s.bs := rfl
@[simp] theorem setSt_la : (setSt v s).la = s.la := rfl
@[simp] theorem setSt_st : (setSt v s).st = v := rfl
@[simp] theorem setSt_run : (setSt v s).run = s.run := rfl
@[simp] theorem setSt_err : (setSt v s).err = s.err := rfl
@[simp] theorem setSt_input : (setSt v s).input = s.input := rfl
@[simp] theorem setSt_outs : (setSt v s).outs = s.outs := rfl

end

section

variable (v : Bool) (s : State)

@[simp] theorem setRun_cfg : (setRun v s).cfg = s.cfg := rfl
@[simp] theorem setRun_impl : (setRun v s).impl = s.impl := rfl
@[simp] theorem setRun_bb : (setRun v s).bb = s.bb := rfl
@[simp] theorem setRun_bs : (setRun v s).bs = s.bs := rfl
@[simp] theorem setRun_la : (setRun v s).la = s.la := rfl
@[simp] theorem setRun_st : (setRun v s).st = s.st := rfl
@[simp] theorem setRun_run : (setRun v s).run = v := rfl
@[simp] theorem setRun_err : (setRun v s).err = s.err := rfl
@[simp] theorem setRun_input : (setRun v s).input = s.input := rfl
@[simp] theorem setRun_outs : (setRun v s).outs = s.outs := rfl

end

section

variable (v : ErrKind) (s : State)

@[simp] theorem setErr_cfg : (setErr v s).cfg = s.cfg := rfl
@[simp] theorem setErr_impl : (setErr v s).impl = s.impl := rfl
@[simp] theorem setErr_bb : (setErr v s).bb = s.bb := rfl
@[simp] theorem setErr_bs : (setErr v s).bs = s.bs := rfl
@[simp] theorem setErr_la : (setErr v s).la = s.la := rfl
@[simp] theorem setErr_st : (setErr v s).st = s.st := rfl
@[simp] theorem setErr_run : (setErr v s).run = s.run := rfl
@[simp] theorem setErr_err : (setErr v s).err = v := rfl
@[simp] theorem setErr_input : (setErr v s).input = s.input := rfl
@[simp] theorem setErr_outs : (setErr v s).outs = s.outs := rfl

end

section

variable (a : OutAction) (s : State)

@[simp] theorem out_cfg : (out a s).cfg = s.cfg := rfl
@[simp] theorem out_impl : (out a s).impl = s.impl := rfl
@[simp] theorem out_bb : (out a s).bb = s.bb := rfl
@[simp] theorem out_bs : (out a s).bs = s.bs := rfl
@[simp] theorem out_la : (out a s).la = s.la := rfl
@[simp] theorem out_st : (out a s).st = s.st := rfl
@[simp] theorem out_run : (out a s).run = s.run := rfl
@[simp] theorem out_err : (out a s).err = s.err := rfl
@[simp] theorem out_input : (out a s).input = s.input := rfl
@[simp] theorem out_outs : (out a s).outs = s.outs ++ [a] := rfl

end

section

variable (v : List Stimulus) (s : State)

@[simp] theorem setInput_cfg : (setInput v s).cfg = s.cfg := rfl
@[simp] theorem setInput_impl : (setInput v s).impl = s.impl := rfl
@[simp] theorem setInput_bb : (setInput v s).bb = s.bb := rfl
@[simp] theorem setInput_bs : (setInput v s).bs = s.bs := rfl
@[simp] theorem setInput_la : (setInput v s).la = s.la := rfl
@[simp] theorem setInput_st : (setInput v s).st = s.st := rfl
@[simp] theorem setInput_run : (setInput v s).run = s.run := rfl
@[simp] theorem setInput_err : (setInput v s).err = s.err := rfl
@[simp] theorem setInput_input : (setInput v s).input = v := rfl
@[simp] theorem setInput_outs : (setInput v s).outs = s.outs := rfl

end

section

variable (k : Nat) (s : State)

@[simp] theorem bbPop_fst : (bbPop k s).1 = s.bb.take k := rfl
@[simp] theorem bbPop_cfg : (bbPop k s).2.cfg = s.cfg := rfl
@[simp] theorem bbPop_impl : (bbPop k s).2.impl = s.impl := rfl
@[simp] theorem bbPop_bb : (bbPop k s).2.bb = s.bb.drop k := rfl
@[simp] theorem bbPop_bs : (bbPop k s).2.bs = s.bs := rfl
@[simp] theorem bbPop_la : (bbPop k s).2.la = s.la := rfl
@[simp] theorem bbPop_st : (bbPop k s).2.st = s.st := rfl
@[simp] theorem bbPop_run : (bbPop k s).2.run = s.run := rfl
@[simp] theorem bbPop_err : (bbPop k s).2.err = s.err := rfl
@[simp] theorem bbPop_input : (bbPop k s).2.input = s.input := rfl
@[simp] theorem bbPop_outs : (bbPop k s).2.outs = s.outs := rfl

end

@[simp] theorem pendingBits_eq (s : State) : pendingBits s = s.bs := rfl

end Sys2Proof.Machine
end

