-- ==== Sys2Proof/Laws/Ops.lean ====
section
/-! SUPPORT. What each shared operation does, said once: raising an error, reset, FEED1 and FEED, FINALIZE, and the
inversion of each meaning. -/

namespace Sys2Proof.Machine

/-! ### The flags as propositions -/

@[simp] theorem pending_iff (s : State) : pending s = true ↔ s.bs ≠ [] := by
  simp [pending, Nat.one_le_iff_ne_zero]

@[simp] theorem pending_eq_false_iff (s : State) : pending s = false ↔ s.bs = [] := by
  rw [← Bool.not_eq_true, pending_iff, not_not]

@[simp] theorem pktReady_iff (s : State) : pktReady s = true ↔ s.cfg.packetSize ≤ s.bb.length := by
  simp [pktReady]

@[simp] theorem quiescent_iff (now : Nat) (s : State) : quiescent now s = true ↔ s.la + s.cfg.qTicks < now := by
  simp [quiescent, isQuiescent]

@[simp] theorem cfgOk_iff (c : Cfg) : cfgOk c = true ↔ 1 ≤ c.packetSize ∧ 1 ≤ c.height := by
  simp [cfgOk]

theorem tickFits_of_unbounded {p : Impl} (h : p.tsWidth = none) (t : Nat) : tickFits p t = true := by
  simp [tickFits, h]

theorem bitsFit_of_unbounded {p : Impl} (h : p.bsCap = none) (n : Nat) : bitsFit p n = true := by
  simp [bitsFit, h]

theorem bitsFit_mono {p : Impl} {m n : Nat} (hmn : m ≤ n) (h : bitsFit p n = true) : bitsFit p m = true := by
  unfold bitsFit at *
  split at h <;> simp_all
  omega

theorem bitsFit_zero (p : Impl) : bitsFit p 0 = true := by
  unfold bitsFit
  split <;> simp

theorem pollTimesFit_of_unbounded {s : State} (h : s.impl.tsWidth = none) (now : Nat) :
    pollTimesFit now s = true := by
  simp [pollTimesFit, tickFits_of_unbounded h]

/-! ### Raising an error -/

/-- Raising the read failure: the recorded kind, the halt, then release and report. -/
theorem raise_transportRead (s : State) :
    raise .transportRead s =
      { s with err := .transportRead, run := false, outs := s.outs ++ [.close, .report 2] } := by
  simp [raise, out, setRun, setErr, errCode]

/-- Raising the configuration error: the recorded kind, the halt, then the report; nothing is released. -/
theorem raise_config (s : State) :
    raise .config s = { s with err := .config, run := false, outs := s.outs ++ [.report 3] } := by
  simp [raise, out, setRun, setErr, errCode]

/-! ### Reset -/

/-- Reset with a legal configuration. -/
theorem applyReset_of_ok {c : Cfg} (h : cfgOk c = true) (s : State) : applyReset c s = resetValues c s := by
  simp only [applyReset, h, if_true]

/-- Reset with an illegal configuration. -/
theorem applyReset_of_not_ok {c : Cfg} (h : cfgOk c = false) (s : State) :
    applyReset c s =
      { resetValues c s with err := .config, run := false, outs := s.outs ++ [.report 3] } := by
  simp [applyReset, h, raise_config, resetValues]

/-- Reset with the default configuration leaves the state after reset as it is. -/
theorem applyReset_reset : applyReset Config.defaultCfg State.reset = State.reset := by decide

/-! ### FEED1 and FEED -/

/-- FEED1 of a byte that does not complete a packet. -/
theorem feed1_of_ne {b : RawByte} {s : State} (h : s.bb.length + 1 ≠ s.cfg.packetSize) :
    feed1 b s = { s with bb := s.bb ++ [b] } := by
  simp [feed1, h, bbPush, bbAppend]

/-- FEED1 of the byte that completes a packet. -/
theorem feed1_of_eq {b : RawByte} {s : State} (h : s.bb.length + 1 = s.cfg.packetSize) :
    feed1 b s = { s with bb := [], bs := s.bs ++ decodePacket (s.bb ++ [b]) } := by
  have hl : (s.bb ++ [b]).length = s.cfg.packetSize := by simpa using h
  simp only [feed1, bbPush_bb, bbPush_cfg, hl, if_true]
  rw [← hl]
  simp only [bsAppend, bbPop, bbPush, bbAppend, List.take_length, List.drop_length]

/-- One pass of FEED's loop. -/
theorem drain_succ_of_ready {fuel : Nat} {s : State} (h : s.cfg.packetSize ≤ s.bb.length) :
    drain (fuel + 1) s =
      drain fuel { s with bb := s.bb.drop s.cfg.packetSize
                          bs := s.bs ++ decodePacket (s.bb.take s.cfg.packetSize) } := by
  simp [drain, h, bsAppend, bbPop]

/-- FEED's loop ends when no packet is ready. -/
theorem drain_of_not_ready {fuel : Nat} {s : State} (h : s.bb.length < s.cfg.packetSize) : drain fuel s = s := by
  cases fuel with
  | zero => rfl
  | succ n => simp [drain, pktReady, Nat.not_le.mpr h]

/-! ### FINALIZE -/

/-- ASSEMBLE gives a frame for every positive height. -/
theorem assemble_of_pos {bits : BitSequence} {h : Nat} (hh : 1 ≤ h) :
    assemble bits h = .ok
      { grid := mirror (rot270 h (scale (invert (reshape (pad bits h).1 h))))
        width := (pad bits h).1.length / h
        height := h
        bitCount := bits.length
        padCount := (pad bits h).2 } := by
  simp [assemble, Nat.not_lt.mpr hh]

/-- FINALIZE when ASSEMBLE gives a frame. -/
theorem finalize_of_ok {now : Nat} {s : State} {f : Frame} (h : assemble s.bs s.cfg.height = .ok f) :
    finalize now s =
      { s with bb := [], bs := [], la := now, st := .idle, outs := s.outs ++ [.emit f] } := by
  simp [finalize, h, setSt, noteActivity, accReset, out]

/-- FINALIZE with height 0, which no running core meets. -/
theorem finalize_of_height_zero {now : Nat} {s : State} (h : s.cfg.height = 0) :
    finalize now s =
      { s with st := .finalizing, err := .config, run := false, outs := s.outs ++ [.report 3] } := by
  simp [finalize, h, assemble, raise_config, setSt]

/-! ### The meanings, inverted -/

/-- What a POLL that answers a next state has done. -/
theorem execPoll_next {now : Nat} {s t : State} (h : execPoll now s = .next t) :
    (s.run = false ∧ t = s) ∨
    (s.run = true ∧ pollTimesFit now s = true ∧ s.la + s.cfg.qTicks < now ∧ s.bs ≠ [] ∧ t = finalize now s) ∨
    (s.run = true ∧ pollTimesFit now s = true ∧ (now ≤ s.la + s.cfg.qTicks ∨ s.bs = []) ∧
      t = { s with outs := s.outs ++ [.sleep s.cfg.pTicks] }) := by
  unfold execPoll at h
  split at h
  · exact .inl ⟨‹_›, by simpa using h.symm⟩
  · rename_i hr
    split at h
    · cases h
    · rename_i hf
      split at h
      · rename_i hq
        simp only [Bool.and_eq_true, quiescent_iff, pending_iff] at hq
        exact .inr (.inl ⟨by simpa using hr, by simpa using hf, hq.1, hq.2, by simpa using h.symm⟩)
      · rename_i hq
        simp only [Bool.and_eq_true, quiescent_iff, pending_iff, not_and_or, not_lt, not_not] at hq
        exact .inr (.inr ⟨by simpa using hr, by simpa using hf, hq, by simpa [out] using h.symm⟩)

/-- What an RXB that answers a next state has done. -/
theorem execRxb_next {b : RawByte} {now : Nat} {s t : State} (h : execRxb b now s = .next t) :
    (s.run = false ∧ t = s) ∨
    (s.run = true ∧ tickFits s.impl now = true ∧ bitsFit s.impl (feed1 b s).bs.length = true ∧
      t = { feed1 b s with la := now, st := .receiving }) := by
  unfold execRxb at h
  split at h
  · exact .inl ⟨‹_›, by simpa using h.symm⟩
  · rename_i hr
    split at h
    · cases h
    · rename_i hf
      split at h
      · cases h
      · rename_i hb
        exact .inr ⟨by simpa using hr, by simpa using hf, by simpa using hb,
          by simpa [setSt, noteActivity] using h.symm⟩

/-- What a CANCEL does: it always answers a next state. -/
theorem execCancel_eq (s : State) :
    execCancel s = .next (if s.run then { s with run := false, outs := s.outs ++ [.close] } else s) := by
  cases hr : s.run <;> simp [execCancel, hr, out, setRun]

/-- What an RXERR does: it always answers a next state. -/
theorem execRxerr_eq (s : State) :
    execRxerr s = .next (if s.run then
      { s with err := .transportRead, run := false, outs := s.outs ++ [.close, .report 2] } else s) := by
  cases hr : s.run <;> simp [execRxerr, hr, raise_transportRead]

/-! ### The step, by what is presented -/

theorem step_of_nil {s : State} (h : s.input = []) : step s = .next s := by
  simp [step, acceptNext, h]

theorem step_of_reset {s : State} {c : Cfg} {rest : List Stimulus} (h : s.input = .reset c :: rest) :
    step s = .next (applyReset c (setInput rest s)) := by
  simp [step, acceptNext, h]

theorem step_of_event {s : State} {w : EventWord} {now : Nat} {rest : List Stimulus} {i : Instr}
    (h : s.input = .event w now :: rest) (hd : decode w now = .ok i) : step s = exec i (setInput rest s) := by
  simp [step, acceptNext, h, hd]

end Sys2Proof.Machine
end

