-- ==== Sys2Proof/Laws/Input.lean ====
section
/-! SUPPORT. No meaning looks at the stimuli still to come: an event does on a state with another `input` exactly what it
does, `input` apart. -/

namespace Sys2Proof.Machine

/-- An outcome with other stimuli still to come. -/
def Outcome.withInput (rest : List Stimulus) :
    Host.Outcome State Fault Refusal → Host.Outcome State Fault Refusal
  | .next t => .next { t with input := rest }
  | .fault r => .fault r
  | .refused r => .refused r

theorem feed1_withInput (b : RawByte) (rest : List Stimulus) (s : State) :
    feed1 b { s with input := rest } = { feed1 b s with input := rest } := by
  by_cases h : s.bb.length + 1 = s.cfg.packetSize
  · have h1 := feed1_of_eq (b := b) (s := s) h
    have h2 := feed1_of_eq (b := b) (s := { s with input := rest }) h
    rw [h2, h1]
  · have h1 := feed1_of_ne (b := b) (s := s) h
    have h2 := feed1_of_ne (b := b) (s := { s with input := rest }) h
    rw [h2, h1]

theorem finalize_withInput (now : Nat) (rest : List Stimulus) (s : State) :
    finalize now { s with input := rest } = { finalize now s with input := rest } := by
  rcases Nat.eq_zero_or_pos s.cfg.height with h | h
  · have h1 := finalize_of_height_zero (now := now) (s := s) h
    have h2 := finalize_of_height_zero (now := now) (s := { s with input := rest }) h
    rw [h2, h1]
  · have h1 := finalize_of_ok (now := now) (s := s) (assemble_of_pos h)
    have h2 := finalize_of_ok (now := now) (s := { s with input := rest }) (assemble_of_pos h)
    rw [h2, h1]

theorem exec_withInput (i : Instr) (rest : List Stimulus) (s : State) :
    exec i { s with input := rest } = Outcome.withInput rest (exec i s) := by
  cases i with
  | poll now =>
    have h1 : pollTimesFit now { s with input := rest } = pollTimesFit now s := rfl
    have h2 : quiescent now { s with input := rest } = quiescent now s := rfl
    have h3 : pending { s with input := rest } = pending s := rfl
    simp only [exec, execPoll, h1, h2, h3, finalize_withInput]
    split
    · rfl
    · split
      · rfl
      · split <;> rfl
  | rxb b now =>
    simp only [exec, execRxb, feed1_withInput]
    split
    · rfl
    · split
      · rfl
      · split <;> rfl
  | cancel =>
    simp only [exec, execCancel]
    split <;> rfl
  | rxerr =>
    simp only [exec, execRxerr]
    split <;> rfl

end Sys2Proof.Machine
end

