-- ==== Sys2Proof/Laws/PerInstr.lean ====
section
/-! SUPPORT. The family EncodesToItsRow: every event's word carries, under the mask of the opcode table, the match value
of its row (R92 to R95), one lemma per constructor. -/

/-- The `match` value of an event's row of the opcode table. -/
def Sys2Proof.Laws.EncodesToItsRow.rowMatch : Sys2Proof.Instr → Sys2Proof.EventWord
  | .poll _ => 0x000
  | .rxb _ _ => 0x100
  | .cancel => 0x200
  | .rxerr => 0x300

/-- Under the mask `0x700` the event's word is its row's match value. -/
def Sys2Proof.Laws.EncodesToItsRow.Statement (i : Sys2Proof.Instr) : Prop :=
  Sys2Proof.encode i &&& 0x700 = Sys2Proof.Laws.EncodesToItsRow.rowMatch i

theorem Sys2Proof.Laws.EncodesToItsRow.poll (now : Nat) :
    Sys2Proof.Laws.EncodesToItsRow.Statement (.poll now) := by
  show Sys2Proof.Machine.eventWord 0b000#3 0#8 &&& 0x700 = 0x000
  decide

theorem Sys2Proof.Laws.EncodesToItsRow.rxb (data : Sys2Proof.RawByte) (now : Nat) :
    Sys2Proof.Laws.EncodesToItsRow.Statement (.rxb data now) := by
  show Sys2Proof.Machine.eventWord 0b001#3 data &&& 0x700 = 0x100
  revert data
  decide

theorem Sys2Proof.Laws.EncodesToItsRow.cancel : Sys2Proof.Laws.EncodesToItsRow.Statement .cancel := by
  show Sys2Proof.Machine.eventWord 0b010#3 0#8 &&& 0x700 = 0x200
  decide

theorem Sys2Proof.Laws.EncodesToItsRow.rxerr : Sys2Proof.Laws.EncodesToItsRow.Statement .rxerr := by
  show Sys2Proof.Machine.eventWord 0b011#3 0#8 &&& 0x700 = 0x300
  decide
end

