-- ==== Sys2Proof/Tests/Slice0.lean ====
section
/-! SUPPORT. Tests: expected results are the spec's own test vectors (95_test_vectors.md) or worked by hand from its
rules; and for every statement with hypotheses a concrete state and operands that meet them. -/

namespace Sys2Proof.Tests

open Sys2Proof.Machine

/-- The outcome is that next state. -/
def nextIs (o : Host.Outcome State Fault Refusal) (t : State) : Bool :=
  match o with
  | .next s => decide (s = t)
  | .fault _ => false
  | .refused _ => false

/-- The outcome is that refusal. -/
def refusedIs (o : Host.Outcome State Fault Refusal) (r : Refusal) : Bool :=
  match o with
  | .next _ => false
  | .fault _ => false
  | .refused q => decide (q = r)

/-- The decoder's answer is that event. -/
def decodesTo (w : EventWord) (now : Nat) (i : Instr) : Bool :=
  match decode w now with
  | .ok j => decide (j = i)
  | .error _ => false

/-- The decoder's answer is that refusal. -/
def decodeRefuses (w : EventWord) (op : BitVec 3) : Bool :=
  match decode w 0 with
  | .ok _ => false
  | .error e => decide (e = .reservedOp op)

/-- ASSEMBLE's answer is that frame. -/
def assemblesTo (bits : BitSequence) (h : Nat) (f : Frame) : Bool :=
  match assemble bits h with
  | .ok g => decide (g = f)
  | .error _ => false

/-- A small session: packet size `n`, height `h`, threshold 900, interval 100, right after reset. -/
def fresh (n h : Nat) : State := { State.reset with cfg := cfgOfFields (some n) (some h) none none }

/-- The state of V51: `N = 1`, `H = 4`, the byte 0x4A received at 7. -/
def v51 : State :=
  { fresh 1 4 with bs := [true, false, true, false, false, true], la := 7, st := .receiving }

/-- The frame of V44 and V53. -/
def frame44 : Frame :=
  { grid := [[255, 255], [255, 0], [0, 255], [255, 0]], width := 2, height := 4, bitCount := 6, padCount := 2 }

/-- The decidable part of the invariant, for states that have output nothing. -/
def invCheck (s : State) : Bool :=
  decide (s.run = true → cfgOk s.cfg = true) && decide (s.run = true → s.err = .noError) &&
    decide (s.err = .config ↔ cfgOk s.cfg = false) && decide (s.err ≠ .transportOpen) &&
    decide (cfgOk s.cfg = true → s.bb.length < s.cfg.packetSize) &&
    decide ((8 * s.cfg.packetSize - 2) ∣ s.bs.length) && decide (s.st ≠ .finalizing) &&
    decide (s.st = .idle ↔ s.bb = [] ∧ s.bs = []) && bitsFit s.impl s.bs.length && decide (s.outs = [])

theorem boundaryInv_of_invCheck {s : State} (h : invCheck s = true) : BoundaryInv s := by
  simp only [invCheck, Bool.and_eq_true, decide_eq_true_eq] at h
  obtain ⟨⟨⟨⟨⟨⟨⟨⟨⟨h1, h2⟩, h3⟩, h4⟩, h5⟩, h6⟩, h7⟩, h8⟩, h9⟩, h10⟩ := h
  exact ⟨h1, h2, h3, h4, h5, h6, h7, h8, h9, fun f hf => by simp [h10] at hf⟩

/-! ### Well-formedness: a term that each check refuses, and a well-formed one -/

theorem test_wf_poll_beyond_width : Instr.wellFormed { tsWidth := some 8 } (.poll 256) = false := by decide
theorem test_wf_rxb_beyond_width : Instr.wellFormed { tsWidth := some 8 } (.rxb 0 256) = false := by decide
theorem test_wf_rxb_within_width : Instr.wellFormed { tsWidth := some 8 } (.rxb 0 255) = true := by decide
theorem test_wf_event_before_reset : Trace.wellFormed [.poll 0] = false := by decide
theorem test_wf_cfg_without_reset : Trace.wellFormed [.reset, .cfg none none none none] = false := by decide
theorem test_wf_event_between_cfg_and_reset :
    Trace.wellFormed [.reset, .cfg none none none none, .poll 0, .reset] = false := by decide
theorem test_wf_time_decreases : Trace.wellFormed [.reset, .poll 5, .poll 4] = false := by decide
theorem test_wf_byte_out_of_range : Trace.wellFormed [.reset, .rxb 256 0] = false := by decide
theorem test_wf_pkt_of_wrong_length :
    Trace.wellFormed [.cfg (some 2) none none none, .reset, .pkt [1] 0] = false := by decide
theorem test_wf_trace :
    Trace.wellFormed [.cfg (some 2) (some 3) none none, .reset, .pkt [1, 255] 0, .rx [] 0, .poll 9, .cancel] = true := by
  decide
/-- An empty chunk is no event (R104): it stands before `reset`, and its timestamp is not compared. -/
theorem test_wf_empty_chunk_is_no_event :
    Trace.wellFormed [.rx [] 0, .reset, .poll 5, .rx [] 9, .poll 7] = true ∧
      Trace.wellFormed [.rx [1] 0, .reset] = false ∧
      Trace.wellFormed [.reset, .poll 5, .rx [1] 9, .poll 7] = false := by decide

/-! ### Decoding: words written bit by bit from R91 to R96 -/

/-- `000 dddddddd`, data ignored (R92, R97). -/
theorem test_decode_poll : decodesTo 0b00010110101#11 500 (.poll 500) = true := by decide
/-- `001 01001010` is RXB of 0x4A (R93, P1 event 1). -/
theorem test_decode_rxb : decodesTo 0b00101001010#11 0 (.rxb 0x4A 0) = true := by decide
/-- `010 00000000` and another data field (R94, R97). -/
theorem test_decode_cancel :
    (decodesTo 0b01000000000#11 3 .cancel && decodesTo 0b01011111111#11 9 .cancel) = true := by decide
/-- `011 00000000` (R95). -/
theorem test_decode_rxerr : decodesTo 0b01100000000#11 3 .rxerr = true := by decide
/-- The words of V58. -/
theorem test_decode_reserved :
    (decodeRefuses 0x400 4 && decodeRefuses 0x5A5 5 && decodeRefuses 0x600 6 && decodeRefuses 0x7FF 7) = true := by decide
/-- The words R103 gives the trace lines. -/
theorem test_encode_words :
    encode (.poll 9) = 0x000 ∧ encode (.rxb 0xFF 9) = 0x1FF ∧ encode .cancel = 0x200 ∧ encode .rxerr = 0x300 := by decide
theorem test_decodeTableWord :
    decodeTableWord 16 0x000 = some (.poll 0) ∧ decodeTableWord 16 0x14A = some (.rxb 0x4A 0) ∧
      decodeTableWord 16 0x200 = some .cancel ∧ decodeTableWord 16 0x300 = some .rxerr ∧
      decodeTableWord 16 0x400 = none := by decide
/-- The word placed by `withFetchWord` is what the next step runs. -/
theorem test_withFetchWord :
    nextIs (step (State.reset.withFetchWord 16 0x14A)) { State.reset with bb := [0x4A], st := .receiving } = true := by
  decide
/-- Text of P1 and P5 (R102, R103). -/
theorem test_readTrace :
    readTrace "cfg height=0 # P5\n\nreset\nrxb 0x4A @0" = some [.cfg none (some 0) none none, .reset, .rxb 0x4A 0] := by
  decide
/-- Chunks (R104). -/
theorem test_readTrace_chunks :
    readTrace "rx [0x34, 86] @20\npkt [] @21\ncancel" = some [.rx [0x34, 0x56] 20, .pkt [] 21, .cancel] := by decide
theorem test_readTrace_refuses : readTrace "rxb 0x4G @0" = none ∧ readTrace "poll 5" = none := by decide

/-! ### BitDecoder (V10 to V19) -/

/-- V10. -/
theorem test_rev8 :
    ([0x00, 0xFF, 0x01, 0x80, 0x0F, 0xF0, 0x12, 0x4A, 0x96] : List RawByte).map rev8 =
      [0x00, 0xFF, 0x80, 0x01, 0xF0, 0x0F, 0x48, 0x52, 0x69] := by decide
/-- V12. -/
theorem test_emit8 : emit8 0x52 = [false, true, false, true, false, false, true, false] := by decide
/-- V14, V15: the four guard values. -/
theorem test_decodePacket_guards :
    ([0x4A, 0x4B, 0xCA, 0xCB] : List RawByte).map (fun b => decodePacket [b]) =
      List.replicate 4 [true, false, true, false, false, true] := by decide
/-- V18. -/
theorem test_decodePacket_two :
    decodePacket [0x12, 0x34] =
      [true, false, false, true, false, false, false, false, false, true, false, true, true, false] := by decide
/-- R89 on V18's wire bits. -/
theorem test_packPacket :
    packPacket 2 ([false] ++ decodePacket [0x12, 0x34] ++ [false]) = [0x12, 0x34] := by decide

/-! ### StreamAccumulator (V22, V23) -/

/-- V22. -/
theorem test_feed :
    feed [0x34, 0x56] { fresh 2 3 with bb := [0x12] } =
      { fresh 2 3 with bb := [0x56], bs := decodePacket [0x12, 0x34] } := by decide
/-- V23: two packets in one feed. -/
theorem test_feed_two_packets :
    feed [0x12, 0x34, 0x56, 0x78, 0x9A] (fresh 2 3) =
      { fresh 2 3 with bb := [0x9A], bs := decodePacket [0x12, 0x34] ++ decodePacket [0x56, 0x78] } := by decide

/-! ### FrameTimer (V30, V31, V33, V34, V36) -/

theorem test_isQuiescent :
    let s := { fresh 1 4 with la := 125 }
    isQuiescent 1025 900 s = false ∧ isQuiescent 1026 900 s = true ∧ isQuiescent 125 0 s = false ∧
      isQuiescent 126 0 s = true ∧ isQuiescent 100 900 s = false := by decide
theorem test_noteActivity_backwards : (noteActivity 100 { fresh 1 4 with la := 125 }).la = 100 := by decide
/-- 900 ticks of 1/1000 s are 0.9 s, 100 are 0.1 s (R9, R10). -/
theorem test_default_times :
    10 * Config.defaultCfg.qTicks = 9 * Config.defaultImpl.tickHz ∧
      10 * Config.defaultCfg.pTicks = Config.defaultImpl.tickHz := by decide

/-! ### ImageAssembler (V41, V44, V45, V49, V49b) -/

/-- V41. -/
theorem test_assemble_padded :
    assemblesTo [true, true, true, false, false, false, false] 3
      { grid := [[255, 255, 0], [255, 255, 0], [255, 255, 0]], width := 3, height := 3, bitCount := 7, padCount := 2 } =
      true := by decide
/-- V44. -/
theorem test_assemble_v44 : assemblesTo [true, false, true, false, false, true] 4 frame44 = true := by decide
/-- V45, which tells the two readings of the rotation apart. -/
theorem test_assemble_v45 :
    assemblesTo [true, false, false, false, false, false] 2
      { grid := [[255, 255, 255], [255, 255, 0]], width := 3, height := 2, bitCount := 6, padCount := 0 } = true := by
  decide
/-- V49. -/
theorem test_assemble_empty :
    assemblesTo [] 3 { grid := [[], [], []], width := 0, height := 3, bitCount := 0, padCount := 0 } = true := by decide
/-- V49b: height 0 raises ConfigurationError. -/
theorem test_assemble_height_zero : assemble [true] 0 = .error .config := by rfl

/-! ### The events (V50 to V59) -/

/-- V53: the POLL one tick past the threshold emits V44's frame. -/
theorem test_poll_finalizes :
    nextIs (exec (.poll 908) v51) { fresh 1 4 with la := 908, outs := [.emit frame44] } = true := by decide
/-- V52 (exactly at the threshold) and V59 (quiescent, one byte buffered, no bit pending). -/
theorem test_poll_sleeps :
    nextIs (exec (.poll 907) v51) { v51 with outs := [.sleep 100] } = true ∧
      nextIs (exec (.poll 5000) { fresh 2 3 with bb := [0x01], la := 10, st := .receiving })
        { fresh 2 3 with bb := [0x01], la := 10, st := .receiving, outs := [.sleep 100] } = true := by decide
/-- V51. -/
theorem test_rxb_completes_packet : nextIs (exec (.rxb 0x4A 7) (fresh 1 4)) v51 = true := by decide
/-- V54: a byte after a long gap extends the frame. -/
theorem test_rxb_after_gap :
    nextIs (exec (.rxb 0x7E 5000) v51)
      { v51 with bs := v51.bs ++ List.replicate 6 true, la := 5000 } = true := by decide
/-- V55. -/
theorem test_cancel : nextIs (exec .cancel v51) { v51 with run := false, outs := [.close] } = true := by decide
/-- V57. -/
theorem test_halted_ignores :
    nextIs (exec (.poll 99999) { v51 with run := false }) { v51 with run := false } = true ∧
      nextIs (exec (.rxb 0 99999) { v51 with run := false }) { v51 with run := false } = true := by decide
/-- V56. -/
theorem test_rxerr :
    nextIs (exec .rxerr v51) { v51 with run := false, err := .transportRead, outs := [.close, .report 2] } = true := by
  decide
/-- P5: releasing reset with height 0. -/
theorem test_reset_illegal :
    nextIs (step { State.reset with input := [.reset (cfgOfFields none (some 0) none none)] })
      { State.reset with cfg := cfgOfFields none (some 0) none none, run := false, err := .config,
                         outs := [.report 3] } = true := by decide
/-- The codes of R26 and R32 on the status outputs. -/
theorem test_codes :
    [LoopState.idle, .receiving, .finalizing].map loopStateCode = [0, 1, 2] ∧
      [ErrKind.noError, .transportOpen, .transportRead, .config].map errCode = [0, 1, 2, 3] ∧
      statusRun v51 = 1 ∧ statusErr v51 = 0 := by decide
/-- BSRead (R17). -/
theorem test_bsRead : bsRead 2 v51 = some true ∧ bsRead 6 v51 = none := by decide

/-! ### Witnesses: for each statement with hypotheses, and for each of its clauses, operands that meet them -/

theorem test_witness_DecodedWordIsTheEncodingUpToIgnoredData :
    decode 0x1FF 3 = .ok (.rxb 0xFF 3) ∧ decode 0x0FF 3 = .ok (.poll 3) := ⟨rfl, rfl⟩
theorem test_witness_DecodeFollowsTheOpcodeTable :
    0x0FF#11 &&& 0x700#11 = 0x000#11 ∧ 0x100#11 &&& 0x700#11 = 0x100#11 ∧ 0x2FF#11 &&& 0x700#11 = 0x200#11 ∧
      0x3FF#11 &&& 0x700#11 = 0x300#11 := by decide
theorem test_witness_IgnoredFieldsDoNotMatter :
    opField 0x000 = opField 0x0FF ∧ opField 0x000 ≠ 1#3 ∧ opField 0x200 = opField 0x2FF ∧ opField 0x200 = 2#3 ∧
      opField 0x300 = 3#3 ∧ ∀ (b : RawByte) (t : Nat), Instr.cancel ≠ .rxb b t :=
  ⟨by decide, by decide, by decide, by decide, by decide, fun _ _ h => nomatch h⟩
theorem test_witness_ReservedOpIsRefused :
    4 ≤ (opField 0x400).toNat ∧ (opField 0x3FF).toNat < 4 ∧ v51.run = true ∧
      ({ v51 with input := [.event 0x400 0] } : State).input = .event 0x400 0 :: [] := by decide
theorem test_witness_HaltedCoreRefusesReservedWords :
    let s := { v51 with run := false, input := [.event 0x7FF 0] }
    s.run = false ∧ s.input = .event 0x7FF 0 :: [] ∧ 4 ≤ (opField 0x7FF).toNat := by decide
theorem test_witness_TraceNotationPresentsEventsOnly :
    Stimulus.event 0x14A 5 ∈ traceStimuli Config.defaultCfg [.reset, .rxb 0x4A 5] := by decide
theorem test_witness_StepRunsTheDecodedEvent :
    ({ v51 with input := [.event 0x200 0] } : State).input = .event 0x200 0 :: [] ∧ decode 0x200 0 = .ok .cancel :=
  ⟨rfl, rfl⟩
theorem test_witness_StepWithNothingPresentedWaits : State.reset.input = [] := by decide
theorem test_witness_StepOnlyAppendsOutputs :
    nextIs (step { v51 with input := [.event 0x300 0] })
      { v51 with run := false, err := .transportRead, outs := [.close, .report 2] } = true := by decide
theorem test_witness_OnlyResetWritesTheConfiguration :
    exec .cancel v51 = .next { v51 with run := false, outs := [.close] } ∧
      step { v51 with input := [.reset (cfgOfFields (some 1) (some 1) none none)] } = .next (fresh 1 1) := ⟨rfl, rfl⟩
/-- Legal at the boundary, and illegal by either field. -/
theorem test_witness_ResetTakesTheResetState :
    let c := cfgOfFields (some 1) (some 1) none none
    ({ v51 with input := [.reset c] } : State).input = .reset c :: [] ∧ (1 ≤ c.packetSize ∧ 1 ≤ c.height) ∧
      ¬(1 ≤ (cfgOfFields (some 0) none none none).packetSize) ∧ ¬(1 ≤ (cfgOfFields none (some 0) none none).height) := by
  decide
theorem test_witness_IllegalConfigurationHaltsAtReset :
    let c := cfgOfFields none (some 0) none none
    ({ v51 with input := [.reset c] } : State).input = .reset c :: [] ∧ (c.packetSize = 0 ∨ c.height = 0) := by decide
theorem test_witness_HaltedCoreIgnoresEveryEvent : ({ v51 with run := false } : State).run = false := by decide
/-- The byte that completes a packet (V51's) and one that does not. -/
theorem test_witness_RxbFeedsOneByteAndRestartsTheTimer :
    (fresh 1 4).run = true ∧ tickFits (fresh 1 4).impl 7 = true ∧ bitsFit (fresh 1 4).impl 6 = true ∧
      (fresh 1 4).bb.length + 1 = (fresh 1 4).cfg.packetSize ∧
      (fresh 2 3).run = true ∧ tickFits (fresh 2 3).impl 7 = true ∧ bitsFit (fresh 2 3).impl 0 = true ∧
      (fresh 2 3).bb.length + 1 ≠ (fresh 2 3).cfg.packetSize := by decide
/-- No capacity; a capacity one bit short of the next packet; a capacity it just reaches. -/
theorem test_witness_RxbIsRefusedExactlyBeyondCapacity :
    v51.run = true ∧ tickFits v51.impl 7 = true ∧ v51.impl.bsCap = none ∧
      refusedIs (exec (.rxb 0 7) { v51 with impl := { bsCap := some 11 } }) .bitStoreFull = true ∧
      nextIs (exec (.rxb 0 7) { v51 with impl := { bsCap := some 12 } })
        { v51 with impl := { bsCap := some 12 }, bs := v51.bs ++ List.replicate 6 false } = true := by decide
/-- `now` at the width's bound; `LA + Q_TICKS = 907` beyond 9 bits with a `now` that fits. -/
theorem test_witness_TimestampsBeyondTheirWidthAreRefused :
    let s := { v51 with impl := { tsWidth := some 9 } }
    s.run = true ∧ s.impl.tsWidth = some 9 ∧ 2 ^ 9 ≤ 512 ∧ 2 ^ 9 ≤ s.la + s.cfg.qTicks ∧
      refusedIs (exec (.poll 511) s) .timestampOverflow = true ∧
      refusedIs (exec (.rxb 0 512) s) .timestampOverflow = true := by decide
/-- Not quiescent at the threshold; quiescent with nothing pending. -/
theorem test_witness_PollWithoutFinalizationOnlySleeps :
    v51.run = true ∧ pollTimesFit 907 v51 = true ∧ 907 ≤ v51.la + v51.cfg.qTicks ∧
      (fresh 1 4).run = true ∧ pollTimesFit 5000 (fresh 1 4) = true ∧ (fresh 1 4).bs = [] := by decide
theorem test_witness_QuiescentPollEmitsTheFrame :
    v51.run = true ∧ pollTimesFit 908 v51 = true ∧ 1 ≤ v51.cfg.height ∧ v51.bs ≠ [] ∧ v51.la + v51.cfg.qTicks < 908 ∧
      BoundaryInv v51 :=
  ⟨by decide, by decide, by decide, by decide, by decide, boundaryInv_of_invCheck (by decide)⟩
theorem test_witness_PollAfterFinalizationEmitsNothing :
    BoundaryInv v51 ∧ exec (.poll 908) v51 = .next { fresh 1 4 with la := 908, outs := [.emit frame44] } ∧
      exec (.poll 909) { fresh 1 4 with la := 908, outs := [.emit frame44] } =
        .next { fresh 1 4 with la := 908, outs := [.emit frame44, .sleep 100] } :=
  ⟨boundaryInv_of_invCheck (by decide), rfl, rfl⟩
theorem test_witness_QuiescenceIsTheRealComparison : 100 < v51.la + 94 := by decide
theorem test_witness_CancelHaltsAndReleases : v51.run = true := by decide
theorem test_witness_RxerrRaisesTheReadFailure : (fresh 1 4).run = true := by decide
theorem test_witness_CloseExactlyWhenTheLoopEnds :
    BoundaryInv v51 ∧ exec .rxerr v51 =
      .next { v51 with run := false, err := .transportRead, outs := [.close, .report 2] } :=
  ⟨boundaryInv_of_invCheck (by decide), rfl⟩
/-- Each kind of event from RECEIVING, and the idle state. -/
theorem test_witness_LoopStateFollowsTheTransitionTable :
    BoundaryInv v51 ∧ v51.run = true ∧ exec (.rxb 0x4A 8) v51 = .next { v51 with bs := v51.bs ++ v51.bs, la := 8 } ∧
      exec (.poll 907) v51 = .next { v51 with outs := [.sleep 100] } ∧
      exec .cancel v51 = .next { v51 with run := false, outs := [.close] } ∧
      exec .rxerr v51 = .next { v51 with run := false, err := .transportRead, outs := [.close, .report 2] } ∧
      BoundaryInv (fresh 1 4) ∧ (fresh 1 4).run = true ∧ (fresh 1 4).st = .idle :=
  ⟨boundaryInv_of_invCheck (by decide), rfl, rfl, rfl, rfl, rfl, boundaryInv_of_invCheck (by decide), rfl, rfl⟩
theorem test_witness_StepKeepsTheInvariant :
    BoundaryInv { v51 with input := [.event 0x000 908] } ∧
      step { v51 with input := [.event 0x000 908] } = .next { fresh 1 4 with la := 908, outs := [.emit frame44] } :=
  ⟨boundaryInv_of_invCheck (by decide), rfl⟩
theorem test_witness_TimestampWithoutPendingBitsIsUnobservable :
    (fresh 2 3).bs = [] ∧ (fresh 2 3).impl.tsWidth = none := by decide
/-- One byte of a two-byte packet and a late POLL. -/
theorem test_witness_NoByteNoFrame :
    (fresh 2 3).run = true ∧ (fresh 2 3).bs = [] ∧ (fresh 2 3).impl.tsWidth = none ∧ BoundaryInv (fresh 2 3) ∧
      (fresh 2 3).bb = [] ∧ runEvents [.rxb 1 10, .poll 5000] (fresh 2 3) =
        .next { fresh 2 3 with bb := [1], la := 10, st := .receiving, outs := [.sleep 100] } ∧
      (bytesOf [.rxb 1 10, .poll 5000]).length < (fresh 2 3).cfg.packetSize :=
  ⟨rfl, rfl, rfl, boundaryInv_of_invCheck (by decide), rfl, rfl, by decide⟩
/-- One packet, one frame. -/
theorem test_witness_FramesAreBoundedByPackets :
    exec (.rxb 0x4A 7) (fresh 1 4) = .next v51 ∧ BoundaryInv (fresh 1 4) ∧ (fresh 1 4).bb = [] ∧ (fresh 1 4).bs = [] ∧
      runEvents [.rxb 0x4A 7, .poll 908] (fresh 1 4) =
        .next { fresh 1 4 with la := 908, outs := [.emit frame44] } :=
  ⟨rfl, boundaryInv_of_invCheck (by decide), rfl, rfl, rfl⟩
theorem test_witness_FrameDependsOnlyOnTheBytes :
    BoundaryInv (fresh 1 4) ∧ (fresh 1 4).bb = [] ∧ (fresh 1 4).bs = [] ∧
      runEvents [.rxb 0x4A 7] (fresh 1 4) = .next v51 ∧ framesOf v51.outs = framesOf (fresh 1 4).outs ∧
      exec (.poll 908) v51 = .next { fresh 1 4 with la := 908, outs := [.emit frame44] } ∧
      ({ fresh 1 4 with la := 908, outs := [.emit frame44] } : State).outs = v51.outs ++ [.emit frame44] :=
  ⟨boundaryInv_of_invCheck (by decide), rfl, rfl, rfl, rfl, rfl, rfl⟩
/-- Both sides true at 908, both false at 907. -/
theorem test_witness_PollFinalizesExactlyWhen :
    BoundaryInv (fresh 1 4) ∧ (fresh 1 4).bb = [] ∧ (fresh 1 4).bs = [] ∧ Unbounded (fresh 1 4).impl ∧
      runEvents [.rxb 0x4A 7] (fresh 1 4) = .next v51 ∧ framesOf v51.outs = framesOf (fresh 1 4).outs ∧
      lastByteTime 0 [.rxb 0x4A 7] + 900 < 908 ∧ ¬(lastByteTime 0 [.rxb 0x4A 7] + 900 < 907) :=
  ⟨boundaryInv_of_invCheck (by decide), rfl, rfl, ⟨rfl, rfl⟩, rfl, rfl, by decide, by decide⟩
theorem test_witness_StreamBitIsTheWireBit : 15 < 8 * ([0x12, 0x34] : List RawByte).length := by decide
theorem test_witness_DecodedBitIsTheImageBit :
    1 ≤ ([0x4A] : List RawByte).length ∧ 5 ≤ 8 * ([0x4A] : List RawByte).length - 3 := by decide
/-- V15's bytes differ in both guards and nowhere else. -/
theorem test_witness_DecodeDoesNotSeeTheGuards :
    1 ≤ ([0x4A] : List RawByte).length ∧
      ∀ j : Fin 8, ¬j.val = 0 → ¬j.val = 7 → (0x4A : RawByte).getLsbD j = (0xCB : RawByte).getLsbD j := by decide
theorem test_witness_PacketIsItsGuardsAndImageBits :
    1 ≤ ([0x4A] : List RawByte).length ∧ v51.bs.length = 8 * 1 - 2 := by decide
theorem test_witness_FeedClosedForm : 1 ≤ (fresh 2 3).cfg.packetSize := by decide
theorem test_witness_ChunkingDoesNotMatter :
    1 ≤ (fresh 2 3).cfg.packetSize ∧ (fresh 2 3).bb.length < (fresh 2 3).cfg.packetSize := by decide
theorem test_witness_ChunkedReadIsItsBytes :
    ([0x34, 0x56] : List RawByte) ≠ [] ∧ (fresh 2 3).run = true ∧ 1 ≤ (fresh 2 3).cfg.packetSize ∧
      (fresh 2 3).bb.length < (fresh 2 3).cfg.packetSize ∧ tickFits (fresh 2 3).impl 20 = true ∧
      bitsFit (fresh 2 3).impl (feed [0x34, 0x56] (fresh 2 3)).bs.length = true := by decide
theorem test_witness_PadCompletesTheLastLine : 0 < [true].length ∧ [true].length < 3 ∧ 1 ≤ 3 := by decide
theorem test_witness_FrameDimensions : assemble [true, false, true, false, false, true] 4 = .ok frame44 := rfl
/-- The bottom right pixel and the last padded bit, and a grid for the reflection. -/
theorem test_witness_GridClosedForm :
    assemble [true, false, true, false, false, true] 4 = .ok frame44 ∧ 3 < 4 ∧ 1 < frame44.width ∧
      7 < (pad [true, false, true, false, false, true] 4).1.length ∧
      (∀ row ∈ ([[0, 255], [255, 0], [0, 0]] : Grid Pixel), row.length = 2) ∧ 1 < 2 ∧
      2 < ([[0, 255], [255, 0], [0, 0]] : Grid Pixel).length :=
  ⟨rfl, by decide, by decide, by decide, by decide, by decide, by decide⟩
theorem test_witness_PaddingLandsTopLeft :
    assemble [true, false, true, false, false, true] 4 = .ok frame44 ∧ 1 < frame44.padCount := ⟨rfl, by decide⟩
/-- V44, and V49a, whose length is a multiple of the height. -/
theorem test_witness_PaddingIsIdempotent :
    assemble [true, false, true, false, false, true] 4 = .ok frame44 ∧
      assemble [true, false, true, false, false, true, false, false] 4 =
        .ok { frame44 with bitCount := 8, padCount := 0 } ∧
      ([true, false, true, false, false, true, false, false] : BitSequence).length % 4 = 0 := ⟨rfl, rfl, rfl⟩
theorem test_witness_ReshapeIndexMap :
    1 ≤ 3 ∧ ([true, true, false, false, false, false] : BitSequence).length % 3 = 0 ∧ 1 < 6 / 3 ∧ 2 < 3 := by decide
theorem test_witness_RotationAndMirrorIndexMaps :
    (∀ row ∈ ([[0, 255], [255, 0], [0, 0]] : Grid Pixel), row.length = 2) ∧ 1 < 2 ∧
      2 < ([[0, 255], [255, 0], [0, 0]] : Grid Pixel).length := by decide
theorem test_witness_EmptySequenceAssembles : 1 ≤ 3 := by decide
theorem test_witness_AssembleFailsOnlyForHeightZero : BoundaryInv v51 ∧ v51.run = true :=
  ⟨boundaryInv_of_invCheck (by decide), rfl⟩

end Sys2Proof.Tests
end

section
/-! SUPPORT. The dispatch and the run by equations, the frames of FEED1 and FINALIZE, and reset in closed form: the
facts about the state's operations that the proofs below cite. -/

namespace Sys2Proof.Machine

/-! ### Dispatch and run -/

@[simp] theorem exec_poll (now : Nat) (s : State) : exec (.poll now) s = execPoll now s := rfl
@[simp] theorem exec_rxb (b : RawByte) (now : Nat) (s : State) : exec (.rxb b now) s = execRxb b now s := rfl
@[simp] theorem exec_cancel (s : State) : exec .cancel s = execCancel s := rfl
@[simp] theorem exec_rxerr (s : State) : exec .rxerr s = execRxerr s := rfl

/-- A halted core ignores the event (R201). -/
theorem exec_of_halted {s : State} (h : s.run = false) (i : Instr) : exec i s = .next s := by
  cases i with
  | poll now => simp [execPoll, h]
  | rxb b now => simp [execRxb, h]
  | cancel => simp [execCancel, h]
  | rxerr => simp [execRxerr, h]

/-- RXB in a running core: its two refusals, else FEED1 and the restart of the timer (R204). -/
theorem execRxb_of_running {s : State} (h : s.run = true) (b : RawByte) (now : Nat) :
    execRxb b now s =
      if tickFits s.impl now = false then .refused .timestampOverflow
      else if bitsFit s.impl (feed1 b s).bs.length = false then .refused .bitStoreFull
      else .next (setSt .receiving (noteActivity now (feed1 b s))) := by
  simp [execRxb, h]

/-- CANCEL in a running core (R210). -/
theorem execCancel_of_running {s : State} (h : s.run = true) :
    execCancel s = .next { s with run := false, outs := s.outs ++ [.close] } := by
  rw [execCancel_eq, if_pos h]

/-- RXERR in a running core (R211). -/
theorem execRxerr_of_running {s : State} (h : s.run = true) :
    execRxerr s =
      .next { s with err := .transportRead, run := false, outs := s.outs ++ [.close, .report 2] } := by
  rw [execRxerr_eq, if_pos h]

@[simp] theorem runEvents_nil (s : State) : runEvents [] s = .next s := rfl

/-- The run goes on from the state its first event answers. -/
theorem runEvents_cons_of_next {i : Instr} {s t : State} (h : exec i s = .next t) (is : List Instr) :
    runEvents (i :: is) s = runEvents is t := by
  simp only [runEvents, h]

/-- The state before a run matters only through the answer to the first event. -/
theorem runEvents_cons_congr {i : Instr} {s s' : State} (h : exec i s = exec i s') (is : List Instr) :
    runEvents (i :: is) s = runEvents (i :: is) s' := by
  simp only [runEvents, h]

/-! ### What FEED1 and FINALIZE leave unchanged -/

/-- FEED1 writes BB and BS and nothing else (R132). -/
theorem feed1_frame (b : RawByte) (s : State) :
    feed1 b s = { s with bb := (feed1 b s).bb, bs := (feed1 b s).bs } := by
  by_cases h : s.bb.length + 1 = s.cfg.packetSize
  · rw [feed1_of_eq h]
  · rw [feed1_of_ne h]

section

variable (b : RawByte) (s : State)

@[simp] theorem feed1_cfg : (feed1 b s).cfg = s.cfg := by rw [feed1_frame]
@[simp] theorem feed1_impl : (feed1 b s).impl = s.impl := by rw [feed1_frame]
@[simp] theorem feed1_la : (feed1 b s).la = s.la := by rw [feed1_frame]
@[simp] theorem feed1_st : (feed1 b s).st = s.st := by rw [feed1_frame]
@[simp] theorem feed1_run : (feed1 b s).run = s.run := by rw [feed1_frame]
@[simp] theorem feed1_err : (feed1 b s).err = s.err := by rw [feed1_frame]
@[simp] theorem feed1_input : (feed1 b s).input = s.input := by rw [feed1_frame]
@[simp] theorem feed1_outs : (feed1 b s).outs = s.outs := by rw [feed1_frame]

end

/-- FINALIZE writes neither the configuration nor the parameters nor the trace, ASSEMBLE's failure included. -/
theorem finalize_frame (now : Nat) (s : State) :
    (finalize now s).cfg = s.cfg ∧ (finalize now s).impl = s.impl ∧ (finalize now s).input = s.input := by
  rcases Nat.eq_zero_or_pos s.cfg.height with hzero | hpos
  · simp [finalize_of_height_zero hzero]
  · simp [finalize_of_ok (assemble_of_pos hpos)]

/-! ### Reset -/

/-- Reset in closed form: CFG_OK decides RUN, ERR and the report (R44, R280, R282). -/
theorem applyReset_eq (c : Cfg) (s : State) :
    applyReset c s =
      { s with cfg := c, bb := [], bs := [], la := 0, st := .idle, run := cfgOk c
               err := if cfgOk c then .noError else .config
               outs := if cfgOk c then s.outs else s.outs ++ [.report 3] } := by
  cases h : cfgOk c
  · simp [applyReset_of_not_ok h, resetValues]
  · simp [applyReset_of_ok h, resetValues]

/-- Reset with any configuration establishes the invariant; of the state before, only the frames it has emitted
matter. -/
theorem boundaryInv_applyReset (c : Cfg) {s : State} (hframes : ∀ f, OutAction.emit f ∈ s.outs → FrameShape f) :
    BoundaryInv (applyReset c s) := by
  rw [applyReset_eq]
  exact
    { running_cfgOk := id
      running_noError := fun hrun => if_pos hrun
      config_err_iff := by cases cfgOk c <;> simp
      err_ne_transportOpen := by cases cfgOk c <;> simp
      bb_short := fun hok => ((cfgOk_iff c).mp hok).1
      bs_whole := dvd_zero _
      st_ne_finalizing := by simp
      idle_iff_empty := by simp
      bs_fits := bitsFit_zero s.impl
      frames_shaped := fun f hf => hframes f (by cases h : cfgOk c <;> simpa [h] using hf) }

end Sys2Proof.Machine
end

section
/-! PROOFS. The value of LA while no bit is pending (R47): an event either overwrites LA or carries it along unread. -/

namespace Sys2Proof.Machine

theorem feed1_withLa (b : RawByte) (a : Nat) (s : State) : feed1 b { s with la := a } = { feed1 b s with la := a } := by
  by_cases h : s.bb.length + 1 = s.cfg.packetSize
  · rw [feed1_of_eq h, feed1_of_eq (s := { s with la := a }) h]
  · rw [feed1_of_ne h, feed1_of_ne (s := { s with la := a }) h]

/-- RXB in a running core overwrites LA (R151), so its answer does not depend on the old value. -/
theorem execRxb_withLa {s : State} (hrun : s.run = true) (b : RawByte) (now a : Nat) :
    execRxb b now { s with la := a } = execRxb b now s := by
  rw [execRxb_of_running hrun, execRxb_of_running (s := { s with la := a }) hrun, feed1_withLa]
  rfl

/-- With no bit pending a POLL in a running core only asks to sleep, quiescent or not (R207, R208). -/
theorem execPoll_of_no_pending {s : State} {now : Nat} (hrun : s.run = true) (hfit : pollTimesFit now s = true)
    (hbs : s.bs = []) : execPoll now s = .next { s with outs := s.outs ++ [.sleep s.cfg.pTicks] } := by
  have hpending : pending s = false := (pending_eq_false_iff s).mpr hbs
  simp [execPoll, hrun, hfit, hpending, out]

/-- With no bit pending, an event answers the same whatever LA holds, or it answers two states that differ in LA alone
and still have no bit pending. -/
theorem exec_withLa_of_no_pending (i : Instr) {s : State} (a : Nat) (hbs : s.bs = []) (hw : s.impl.tsWidth = none) :
    exec i { s with la := a } = exec i s ∨
      ∃ t : State, exec i s = .next t ∧ exec i { s with la := a } = .next { t with la := a } ∧
        t.bs = [] ∧ t.impl = s.impl := by
  rcases Bool.eq_false_or_eq_true s.run with hrun | hrun
  · cases i with
    | poll now =>
      exact .inr ⟨_, execPoll_of_no_pending hrun (pollTimesFit_of_unbounded hw now) hbs,
        execPoll_of_no_pending (s := { s with la := a }) hrun
          (pollTimesFit_of_unbounded (s := { s with la := a }) hw now) hbs, hbs, rfl⟩
    | rxb b now => exact .inl (execRxb_withLa hrun b now a)
    | cancel =>
      exact .inr ⟨_, execCancel_of_running hrun, execCancel_of_running (s := { s with la := a }) hrun, hbs, rfl⟩
    | rxerr =>
      exact .inr ⟨_, execRxerr_of_running hrun, execRxerr_of_running (s := { s with la := a }) hrun, hbs, rfl⟩
  · exact .inr ⟨s, exec_of_halted hrun i, exec_of_halted (s := { s with la := a }) hrun i, hbs, rfl⟩

/-- Settles O30, by induction on the events: the two runs meet at the first RXB a running core accepts or refuses, and
until then they differ in LA alone. -/
theorem timestampWithoutPendingBitsIsUnobservable : Obligations.TimestampWithoutPendingBitsIsUnobservable := by
  unfold Obligations.TimestampWithoutPendingBitsIsUnobservable
  intro es
  induction es with
  | nil => intro s a _ _; rfl
  | cons i es ih =>
    intro s a hbs hw
    rcases exec_withLa_of_no_pending i a hbs hw with hsame | ⟨t, hexec, hexecLa, htbs, htimpl⟩
    · rw [runEvents_cons_congr hsame]
    · rw [runEvents_cons_of_next hexec, runEvents_cons_of_next hexecLa]
      exact ih t a htbs (by rw [htimpl, hw])

end Sys2Proof.Machine
end

section
/-! PROOFS. Who writes the configuration, and the state after reset (R40, R44). -/

namespace Sys2Proof.Machine

/-- No event writes the configuration, the parameters or the trace to come. -/
theorem exec_next_frame {i : Instr} {s t : State} (h : exec i s = .next t) :
    t.cfg = s.cfg ∧ t.impl = s.impl ∧ t.input = s.input := by
  cases i with
  | poll now =>
    rcases execPoll_next h with ⟨-, rfl⟩ | ⟨-, -, -, -, rfl⟩ | ⟨-, -, -, rfl⟩
    · exact ⟨rfl, rfl, rfl⟩
    · exact finalize_frame now s
    · exact ⟨rfl, rfl, rfl⟩
  | rxb b now =>
    rcases execRxb_next h with ⟨-, rfl⟩ | ⟨-, -, -, rfl⟩
    · exact ⟨rfl, rfl, rfl⟩
    · exact ⟨feed1_cfg b s, feed1_impl b s, feed1_input b s⟩
  | cancel =>
    rw [exec_cancel, execCancel_eq, Host.Outcome.next.injEq] at h
    subst h
    split <;> exact ⟨rfl, rfl, rfl⟩
  | rxerr =>
    rw [exec_rxerr, execRxerr_eq, Host.Outcome.next.injEq] at h
    subst h
    split <;> exact ⟨rfl, rfl, rfl⟩

/-- Settles O13: the event level is the frame of every meaning, the step level adds the closed form of reset. -/
theorem onlyResetWritesTheConfiguration : Obligations.OnlyResetWritesTheConfiguration := by
  unfold Obligations.OnlyResetWritesTheConfiguration
  refine ⟨fun i s t h => exec_next_frame h, fun s t h => ?_⟩
  rcases step_next h with ⟨-, rfl⟩ | ⟨c, rest, hinput, rfl⟩ | ⟨w, now, rest, i, -, -, hexec⟩
  · exact ⟨rfl, .inl rfl⟩
  · rw [applyReset_eq]
    exact ⟨rfl, .inr ⟨c, rest, hinput, rfl⟩⟩
  · obtain ⟨hcfg, himpl, -⟩ := exec_next_frame hexec
    exact ⟨himpl, .inl hcfg⟩

/-- Settles O14, by the closed form of reset; the state after reset is read off its definition. -/
theorem resetTakesTheResetState : Obligations.ResetTakesTheResetState := by
  unfold Obligations.ResetTakesTheResetState
  refine ⟨fun s c rest hinput => ⟨_, step_of_reset hinput, ?_⟩, rfl, rfl, rfl, rfl, rfl, rfl, rfl, rfl, rfl, rfl⟩
  rw [applyReset_eq, ← cfgOk_iff c]
  refine ⟨rfl, rfl, rfl, rfl, rfl, fun hok => ?_, fun hbad => ?_, rfl, rfl⟩
  · simp [hok]
  · simp [hbad, errCode]

/-- Settles O28: the state after reset is a reset with the default configuration, before any output. -/
theorem resetMeetsTheInvariant : Obligations.ResetMeetsTheInvariant := by
  unfold Obligations.ResetMeetsTheInvariant
  rw [← applyReset_reset]
  exact boundaryInv_applyReset Config.defaultCfg fun f hf => absurd hf List.not_mem_nil

end Sys2Proof.Machine
end

section
/-! SUPPORT. The decoder by operation code, the mask of the opcode table, the step on a reserved word, and what a trace
presents: the facts about event words that the proofs below cite. -/

namespace Sys2Proof.Machine

/-! ### The decoder, one equation per operation code (R92 to R96) -/

theorem decode_of_op_poll {w : EventWord} (h : opField w = 0#3) (now : Nat) : decode w now = .ok (.poll now) := by
  simp [decode, h]

theorem decode_of_op_rxb {w : EventWord} (h : opField w = 1#3) (now : Nat) :
    decode w now = .ok (.rxb (dataField w) now) := by
  simp [decode, h]

theorem decode_of_op_cancel {w : EventWord} (h : opField w = 2#3) (now : Nat) : decode w now = .ok .cancel := by
  simp [decode, h]

theorem decode_of_op_rxerr {w : EventWord} (h : opField w = 3#3) (now : Nat) : decode w now = .ok .rxerr := by
  simp [decode, h]

theorem decode_of_op_reserved {w : EventWord} (h : 4 ≤ (opField w).toNat) (now : Nat) :
    decode w now = .error (.reservedOp (opField w)) := by
  rcases decode_cases w now with ⟨hop, -⟩ | ⟨hop, -⟩ | ⟨hop, -⟩ | ⟨hop, -⟩ | ⟨-, hd⟩
  · simp [hop] at h
  · simp [hop] at h
  · simp [hop] at h
  · simp [hop] at h
  · exact hd

/-- The event a word decodes to, by its operation code. -/
theorem decode_ok_cases {w : EventWord} {now : Nat} {i : Instr} (h : decode w now = .ok i) :
    (opField w = 0 ∧ i = .poll now) ∨ (opField w = 1 ∧ i = .rxb (dataField w) now) ∨
      (opField w = 2 ∧ i = .cancel) ∨ (opField w = 3 ∧ i = .rxerr) := by
  rcases decode_cases w now with ⟨hop, hd⟩ | ⟨hop, hd⟩ | ⟨hop, hd⟩ | ⟨hop, hd⟩ | ⟨-, hd⟩
  · exact .inl ⟨hop, Except.ok.inj (h.symm.trans hd)⟩
  · exact .inr (.inl ⟨hop, Except.ok.inj (h.symm.trans hd)⟩)
  · exact .inr (.inr (.inl ⟨hop, Except.ok.inj (h.symm.trans hd)⟩))
  · exact .inr (.inr (.inr ⟨hop, Except.ok.inj (h.symm.trans hd)⟩))
  · cases hd.symm.trans h

/-- A word is an event exactly when its operation code is below 4 (R96). -/
theorem exists_decode_ok_iff (w : EventWord) (now : Nat) :
    (∃ i : Instr, decode w now = .ok i) ↔ (opField w).toNat < 4 := by
  rcases decode_cases w now with ⟨hop, hd⟩ | ⟨hop, hd⟩ | ⟨hop, hd⟩ | ⟨hop, hd⟩ | ⟨hop, hd⟩ <;>
    simp [hd, hop]

/-! ### The operation code under the mask `0x700` -/

/-- Masking an event word masks its two fields. -/
theorem eventWord_and (op op' : BitVec 3) (b b' : RawByte) :
    eventWord op b &&& eventWord op' b' = eventWord (op &&& op') (b &&& b') :=
  BitVec.and_append

/-- The mask of the opcode table keeps the operation code and clears the data field. -/
theorem and_opMask (w : EventWord) : w &&& 0x700#11 = eventWord (opField w) 0#8 := by
  have hmask : (0x700#11 : EventWord) = eventWord (BitVec.allOnes 3) 0#8 := rfl
  calc w &&& 0x700#11
      = eventWord (opField w) (dataField w) &&& eventWord (BitVec.allOnes 3) 0#8 := by rw [eventWord_fields, hmask]
    _ = eventWord (opField w) 0#8 := by rw [eventWord_and, BitVec.and_allOnes, BitVec.and_zero]

/-- A word whose masked value is the match value of a row carries that row's operation code. -/
theorem opField_of_and_opMask {w : EventWord} {op : BitVec 3} (h : w &&& 0x700#11 = eventWord op 0#8) :
    opField w = op := by
  rw [and_opMask] at h
  simpa only [opField_eventWord] using congrArg opField h

/-- The data field is the low eight bits (R91). -/
theorem dataField_eq_setWidth (w : EventWord) : dataField w = w.setWidth 8 :=
  (BitVec.setWidth_eq_extractLsb' (by omega)).symm

/-! ### The step on a reserved word -/

/-- A reserved word is refused whatever the state, RUN included (R96; log 5). -/
theorem step_of_reserved {s : State} {w : EventWord} {now : Nat} {rest : List Stimulus}
    (hinput : s.input = .event w now :: rest) (hop : 4 ≤ (opField w).toNat) :
    step s = .refused (.reservedEventWord (opField w)) := by
  simp [step, acceptNext, hinput, decode_of_op_reserved hop]

/-! ### The stimuli of a trace -/

/-- A stimulus of a trace is a reset, presents an event of the first line, or comes from the lines after it. -/
theorem mem_traceStimuli_cons {c : Cfg} {l : TraceLine} {ls : List TraceLine} {x : Stimulus}
    (h : x ∈ traceStimuli c (l :: ls)) :
    x = .reset c ∨ (∃ i ∈ traceLineEvents l, x = i.stimulus) ∨ ∃ c' : Cfg, x ∈ traceStimuli c' ls := by
  cases l with
  | cfg ps ht q p => exact .inr (.inr ⟨_, h⟩)
  | reset =>
    rcases List.mem_cons.mp h with hreset | hrest
    · exact .inl hreset
    · exact .inr (.inr ⟨c, hrest⟩)
  | _ =>
    rcases List.mem_append.mp h with hline | hrest
    · obtain ⟨i, hi, rfl⟩ := List.mem_map.mp hline
      exact .inr (.inl ⟨i, hi, rfl⟩)
    · exact .inr (.inr ⟨c, hrest⟩)

/-- Every event word of a trace is an event's own encoding, presented with that event's timestamp (R103, R104). -/
theorem encoding_of_mem_traceStimuli {ls : List TraceLine} {c : Cfg} {w : EventWord} {now : Nat}
    (h : Stimulus.event w now ∈ traceStimuli c ls) : ∃ i : Instr, w = encode i ∧ now = encodeNow i := by
  induction ls generalizing c with
  | nil => cases h
  | cons l ls ih =>
    rcases mem_traceStimuli_cons h with hreset | ⟨i, -, hi⟩ | ⟨c', hrest⟩
    · cases hreset
    · obtain ⟨hw, hnow⟩ := Stimulus.event.inj hi
      exact ⟨i, hw, hnow⟩
    · exact ih hrest

end Sys2Proof.Machine
end

section
/-! PROOFS. The event word: decoding against encoding, the opcode table, ignored fields, reserved codes, and the words a
trace presents (R91 to R97, R102 to R104). -/

namespace Sys2Proof.Machine

/-- Settles O1: the encoding of each event carries its row's operation code, and the data field of RXB's is its byte. -/
theorem decodeInvertsEncode : Obligations.DecodeInvertsEncode := by
  unfold Obligations.DecodeInvertsEncode
  intro i
  cases i with
  | poll now => exact decode_of_op_poll (opField_eventWord 0 0) now
  | rxb b now =>
    have hdecode := decode_of_op_rxb (opField_eventWord 1 b) now
    rwa [dataField_eventWord] at hdecode
  | cancel => exact decode_of_op_cancel (opField_eventWord 2 0) 0
  | rxerr => exact decode_of_op_rxerr (opField_eventWord 3 0) 0

/-- Settles O2, by the operation code of the word: for RXB the two fields make up the whole word. -/
theorem decodedWordIsTheEncodingUpToIgnoredData : Obligations.DecodedWordIsTheEncodingUpToIgnoredData := by
  unfold Obligations.DecodedWordIsTheEncodingUpToIgnoredData
  intro w now i h
  rcases decode_ok_cases h with ⟨hop, rfl⟩ | ⟨hop, rfl⟩ | ⟨hop, rfl⟩ | ⟨hop, rfl⟩
  · exact ⟨(opField_eventWord 0 0).trans hop.symm, nofun, fun _ _ => rfl⟩
  · have hw : encode (.rxb (dataField w) now) = w :=
      calc encode (.rxb (dataField w) now) = eventWord (opField w) (dataField w) := by rw [hop]; rfl
        _ = w := eventWord_fields w
    exact ⟨congrArg opField hw, fun _ _ _ => ⟨hw, rfl⟩, nofun⟩
  · exact ⟨(opField_eventWord 2 0).trans hop.symm, nofun, nofun⟩
  · exact ⟨(opField_eventWord 3 0).trans hop.symm, nofun, nofun⟩

/-- Settles O3: each match value is an operation code over a cleared data field, so the mask selects that code. -/
theorem decodeFollowsTheOpcodeTable : Obligations.DecodeFollowsTheOpcodeTable := by
  unfold Obligations.DecodeFollowsTheOpcodeTable
  intro w now
  refine ⟨fun h => ?_, fun h => ?_, fun h => ?_, fun h => ?_⟩
  · exact decode_of_op_poll (opField_of_and_opMask (op := 0) h) now
  · rw [← dataField_eq_setWidth]
    exact decode_of_op_rxb (opField_of_and_opMask (op := 1) h) now
  · exact decode_of_op_cancel (opField_of_and_opMask (op := 2) h) now
  · exact decode_of_op_rxerr (opField_of_and_opMask (op := 3) h) now

/-- Settles O5: but for RXB the decoder's equation does not name the data field, for CANCEL and RXERR not the timestamp
either; the encoder writes 0. -/
theorem ignoredFieldsDoNotMatter : Obligations.IgnoredFieldsDoNotMatter := by
  unfold Obligations.IgnoredFieldsDoNotMatter
  refine ⟨fun w w' now now' hsame => ⟨fun hne => ?_, fun hop => ?_⟩, fun i hi => ?_⟩
  · rcases decode_cases w now with ⟨hop, hd⟩ | ⟨hop, -⟩ | ⟨hop, hd⟩ | ⟨hop, hd⟩ | ⟨hop, hd⟩
    · rw [hd, decode_of_op_poll (hsame ▸ hop)]
    · exact absurd hop hne
    · rw [hd, decode_of_op_cancel (hsame ▸ hop)]
    · rw [hd, decode_of_op_rxerr (hsame ▸ hop)]
    · rw [hd, decode_of_op_reserved (hsame ▸ hop), hsame]
  · rcases hop with hop | hop
    · rw [decode_of_op_cancel hop, decode_of_op_cancel (hsame ▸ hop)]
    · rw [decode_of_op_rxerr hop, decode_of_op_rxerr (hsame ▸ hop)]
  · cases i with
    | poll now => exact dataField_eventWord 0 0
    | rxb b now => exact absurd rfl (hi b now)
    | cancel => exact dataField_eventWord 2 0
    | rxerr => exact dataField_eventWord 3 0

/-- Settles O6: the refusal is the step's on a reserved word, RUN set or not; below 4 every operation code has a row. -/
theorem reservedOpIsRefused : Obligations.ReservedOpIsRefused := by
  unfold Obligations.ReservedOpIsRefused
  intro w now
  exact ⟨fun hop _ _ _ hinput => step_of_reserved hinput hop, (exists_decode_ok_iff w now).mpr⟩

/-- Settles O8: what a trace presents is an encoding, and encodings decode. -/
theorem traceNotationPresentsEventsOnly : Obligations.TraceNotationPresentsEventsOnly := by
  unfold Obligations.TraceNotationPresentsEventsOnly
  intro c ls w now h
  obtain ⟨i, rfl, rfl⟩ := encoding_of_mem_traceStimuli h
  exact ⟨i, decodeInvertsEncode i⟩

/-- Settles O7: the step decodes before any meaning looks at RUN. -/
theorem haltedCoreRefusesReservedWords : Obligations.HaltedCoreRefusesReservedWords := by
  unfold Obligations.HaltedCoreRefusesReservedWords
  intro s w now rest _ hinput hop
  exact step_of_reserved hinput hop

end Sys2Proof.Machine
end

section
/-! SUPPORT. The bits of a byte, a stream and a decoded packet by index, and the packing of wire bits as the inverse of
the stream (R81, R87, R89, R110 to R117). -/

namespace Sys2Proof.Machine

/-! ### REV8 -/

/-- REV8 by bit (R110). -/
theorem rev8_getLsbD (b : RawByte) {j : Nat} (hj : j < 8) : (rev8 b).getLsbD j = b.getLsbD (7 - j) := by
  rw [rev8, BitVec.getLsbD_ofBoolListBE]
  interval_cases j <;> rfl

@[simp] theorem rev8_rev8 (b : RawByte) : rev8 (rev8 b) = b := by
  apply BitVec.eq_of_getLsbD_eq
  intro j hj
  calc (rev8 (rev8 b)).getLsbD j = b.getLsbD (7 - (7 - j)) := by rw [rev8_getLsbD _ hj, rev8_getLsbD _ (by omega)]
    _ = b.getLsbD j := by rw [Nat.sub_sub_self (by omega)]

/-! ### The stream and the decoded packet by index -/

/-- The wire bits below 8 are those of the first byte (R81). -/
theorem wireBit_cons_of_lt (b : RawByte) (pkt : List RawByte) {w : Nat} (hw : w < 8) :
    wireBit (b :: pkt) w = b.getLsbD w := by
  simp [wireBit, Nat.div_eq_of_lt hw, Nat.mod_eq_of_lt hw]

/-- From wire bit 8 on the wire bits are those of the remaining bytes (R81). -/
theorem wireBit_cons_add (b : RawByte) (pkt : List RawByte) (w : Nat) :
    wireBit (b :: pkt) (w + 8) = wireBit pkt w := by
  simp [wireBit]

theorem stream_getElem? (pkt : List RawByte) {w : Nat} (hw : w < 8 * pkt.length) :
    (stream pkt)[w]? = some (wireBit pkt w) := by
  induction pkt generalizing w with
  | nil => exact absurd hw (Nat.not_lt_zero w)
  | cons b pkt ih =>
    rw [List.length_cons] at hw
    rw [stream_cons]
    rcases Nat.lt_or_ge w 8 with hfirst | hrest
    · rw [List.getElem?_append_left (by simpa using hfirst), byteBits_getElem? b hfirst,
        wireBit_cons_of_lt b pkt hfirst]
    · obtain ⟨v, rfl⟩ := Nat.exists_eq_add_of_le' hrest
      rw [List.getElem?_append_right (by simp), byteBits_length, Nat.add_sub_cancel, ih (by omega), wireBit_cons_add]

/-- The stream lists the wire bits in order. -/
theorem stream_eq_map (pkt : List RawByte) : stream pkt = (List.range (8 * pkt.length)).map (wireBit pkt) := by
  apply List.ext_getElem?
  intro w
  rcases Nat.lt_or_ge w (8 * pkt.length) with hw | hw
  · rw [stream_getElem? pkt hw, List.getElem?_map, List.getElem?_range hw, Option.map_some]
  · rw [List.getElem?_eq_none (by simpa using hw), List.getElem?_eq_none (by simpa using hw)]

/-- The stream of a packet is its leading guard, its image bits and its trailing guard (R82, R87). -/
theorem stream_eq_guards_imageBits {pkt : List RawByte} (hpkt : 1 ≤ pkt.length) :
    stream pkt = [wireBit pkt 0] ++ (List.range (8 * pkt.length - 2)).map (imageBit pkt) ++
      [wireBit pkt (8 * pkt.length - 1)] := by
  obtain ⟨n, hn⟩ : ∃ n, 8 * pkt.length = n + 1 + 1 := ⟨8 * pkt.length - 2, by omega⟩
  rw [stream_eq_map, hn, List.range_succ, List.range_succ_eq_map]
  simp [imageBit, Function.comp_def]

/-- DECODE takes off the first and the last bit, whatever they are (R114). -/
theorem decodePacket_of_stream_eq {pkt : List RawByte} {gl gt : BitValue} {bits : BitSequence}
    (h : stream pkt = [gl] ++ bits ++ [gt]) : decodePacket pkt = bits := by
  simp [decodePacket, h]

/-- DECODE lists the image bits in order (R87). -/
theorem decodePacket_eq_map (pkt : List RawByte) :
    decodePacket pkt = (List.range (8 * pkt.length - 2)).map (imageBit pkt) := by
  cases pkt with
  | nil => rfl
  | cons b pkt => exact decodePacket_of_stream_eq (stream_eq_guards_imageBits (Nat.succ_pos _))

theorem decodePacket_getElem? (pkt : List RawByte) {k : Nat} (hk : k < 8 * pkt.length - 2) :
    (decodePacket pkt)[k]? = some (imageBit pkt k) := by
  simp [decodePacket_eq_map, hk]

/-- The stream is the decoded packet between its two guards. -/
theorem stream_eq_guards_decodePacket {pkt : List RawByte} (hpkt : 1 ≤ pkt.length) :
    stream pkt = [wireBit pkt 0] ++ decodePacket pkt ++ [wireBit pkt (8 * pkt.length - 1)] := by
  rw [decodePacket_eq_map]
  exact stream_eq_guards_imageBits hpkt

/-! ### Packing wire bits into bytes (R89) -/

/-- The number with the given binary digits, least significant first, has these digits as its bits. -/
theorem testBit_foldr_digits (bits : BitSequence) (j : Nat) :
    (bits.foldr (fun (b : BitValue) acc => (if b then 1 else 0) + 2 * acc) 0).testBit j = bits.getD j false := by
  induction bits generalizing j with
  | nil => simp
  | cons b bits ih =>
    rw [List.foldr_cons]
    cases j with
    | zero => cases b <;> simp [Nat.testBit_zero]
    | succ j =>
      rw [Nat.testBit_succ, List.getD_cons_succ, ← ih j]
      congr 1
      split <;> omega

theorem packByte_getLsbD (bits : BitSequence) {j : Nat} (hj : j < 8) :
    (packByte bits).getLsbD j = bits.getD j false := by
  rw [packByte, BitVec.getLsbD_ofNat, testBit_foldr_digits, decide_eq_true hj, Bool.true_and]

@[simp] theorem packByte_byteBits (b : RawByte) : packByte (byteBits b) = b := by
  apply BitVec.eq_of_getLsbD_eq
  intro j hj
  rw [packByte_getLsbD _ hj, List.getD_eq_getElem?_getD, byteBits_getElem? b hj, Option.getD_some]

theorem byteBits_packByte {bits : BitSequence} (hlen : bits.length = 8) : byteBits (packByte bits) = bits := by
  apply List.ext_getElem?
  intro j
  rcases Nat.lt_or_ge j 8 with hj | hj
  · rw [byteBits_getElem? _ hj, packByte_getLsbD _ hj, List.getD_eq_getElem _ _ (by omega),
      List.getElem?_eq_getElem (by omega)]
  · rw [List.getElem?_eq_none (by simpa using hj), List.getElem?_eq_none (by omega)]

/-- Packing the stream of a packet gives the packet back. -/
theorem packPacket_stream (pkt : List RawByte) : packPacket pkt.length (stream pkt) = pkt := by
  induction pkt with
  | nil => rfl
  | cons b pkt ih =>
    rw [List.length_cons, stream_cons, packPacket, List.take_left' (byteBits_length b),
      List.drop_left' (byteBits_length b), packByte_byteBits, ih]

/-- The packet packed from whole bytes of wire bits carries these wire bits. -/
theorem stream_packPacket {n : Nat} {wire : BitSequence} (hlen : wire.length = 8 * n) :
    stream (packPacket n wire) = wire := by
  induction n generalizing wire with
  | zero => exact (List.eq_nil_of_length_eq_zero hlen).symm
  | succ n ih =>
    have hfirst : byteBits (packByte (wire.take 8)) = wire.take 8 := byteBits_packByte (by simp; omega)
    have hrest : stream (packPacket n (wire.drop 8)) = wire.drop 8 := ih (by simp; omega)
    rw [packPacket, stream_cons, hfirst, hrest, List.take_append_drop]

end Sys2Proof.Machine
end

section
/-! PROOFS. The bit decoder: reversal, the stream and the decoded packet by index, the guards, and the recovery of a
packet (R110 to R120). -/

namespace Sys2Proof.Machine

/-- Settles O36: by induction on the packet, a byte's eight bits at a time. -/
theorem streamBitIsTheWireBit : Obligations.StreamBitIsTheWireBit := by
  unfold Obligations.StreamBitIsTheWireBit
  exact fun pkt => ⟨stream_length pkt, fun _ hw => stream_getElem? pkt hw⟩

/-- Settles O37: a packet of at least one byte has `8N - 3` for its last image bit. -/
theorem decodedBitIsTheImageBit : Obligations.DecodedBitIsTheImageBit := by
  unfold Obligations.DecodedBitIsTheImageBit
  intro pkt hpkt
  exact ⟨decodePacket_length pkt, fun _ hk => decodePacket_getElem? pkt (by omega)⟩

/-- Settles O38: image bit `k` is wire bit `k + 1`, which is neither wire bit 0 nor wire bit `8N - 1`. -/
theorem decodeDoesNotSeeTheGuards : Obligations.DecodeDoesNotSeeTheGuards := by
  unfold Obligations.DecodeDoesNotSeeTheGuards
  intro pkt pkt' _ hlen hsame
  rw [decodePacket_eq_map, decodePacket_eq_map, ← hlen]
  apply List.map_congr_left
  intro k hk
  have hbound : k < 8 * pkt.length - 2 := List.mem_range.mp hk
  exact hsame ((k + 1) / 8) ((k + 1) % 8) (by omega) (by omega) (by omega) (by omega)

/-- Settles O39: packing and the stream are inverse to each other, and the stream is the decoded bits between the
guards. -/
theorem packetIsItsGuardsAndImageBits : Obligations.PacketIsItsGuardsAndImageBits := by
  unfold Obligations.PacketIsItsGuardsAndImageBits
  refine ⟨fun pkt hpkt => ?_, fun n gl gt bits hn hlen => ?_⟩
  · rw [← stream_eq_guards_decodePacket hpkt, packPacket_stream]
  · exact decodePacket_of_stream_eq (stream_packPacket (by simp [hlen]; omega))

/-- Settles O35: reversing twice takes bit `j` to bit `7 - j` and back. -/
theorem reverseByteIsAnInvolution : Obligations.ReverseByteIsAnInvolution := by
  unfold Obligations.ReverseByteIsAnInvolution
  have hinv : Function.Involutive rev8 := rev8_rev8
  exact ⟨fun b _ hj => rev8_getLsbD b hj, hinv, hinv.bijective⟩

end Sys2Proof.Machine
end

section
/-! SUPPORT. The accumulator's byte stream cut into packets: its whole packets' bits and its leftover, packet by packet,
and FEED and FEED1 in terms of them (R131, R132, R136). -/

namespace Sys2Proof.Machine

/-! ### A byte stream, packet by packet -/

section

variable {n : Nat}

/-- Induction over a byte stream as FEED reads it: it fills no packet, or a packet stands before the rest. -/
theorem packet_induction {motive : List RawByte → Prop} (hn : 1 ≤ n) (short : ∀ x, x.length < n → motive x)
    (packet : ∀ x, n ≤ x.length → motive (x.drop n) → motive x) (x : List RawByte) : motive x := by
  rcases Nat.lt_or_ge x.length n with hlt | hge
  · exact short x hlt
  · exact packet x hge (packet_induction hn short packet (x.drop n))
termination_by x.length
decreasing_by simp; omega

theorem packetAt_zero (n : Nat) (x : List RawByte) : packetAt n x 0 = x.take n := by simp [packetAt]

theorem packetAt_succ (n : Nat) (x : List RawByte) (k : Nat) : packetAt n x (k + 1) = packetAt n (x.drop n) k := by
  rw [packetAt, packetAt, List.drop_drop, Nat.succ_mul, Nat.add_comm]

theorem packetBits_of_lt {x : List RawByte} (h : x.length < n) : packetBits n x = [] := by
  simp [packetBits, Nat.div_eq_of_lt h]

theorem leftover_of_lt {x : List RawByte} (h : x.length < n) : leftover n x = x := by
  simp [leftover, Nat.div_eq_of_lt h]

/-- The packets of the rest are one fewer. -/
theorem length_div_eq_succ {x : List RawByte} (hn : 1 ≤ n) (h : n ≤ x.length) :
    x.length / n = (x.drop n).length / n + 1 := by
  rw [List.length_drop, Nat.div_eq_sub_div hn h]

theorem packetBits_of_le {x : List RawByte} (hn : 1 ≤ n) (h : n ≤ x.length) :
    packetBits n x = decodePacket (x.take n) ++ packetBits n (x.drop n) := by
  simp only [packetBits, length_div_eq_succ hn h, List.range_succ_eq_map, List.flatMap_cons, List.flatMap_map,
    packetAt_zero, packetAt_succ]

theorem leftover_of_le {x : List RawByte} (hn : 1 ≤ n) (h : n ≤ x.length) :
    leftover n x = leftover n (x.drop n) := by
  rw [leftover, leftover, length_div_eq_succ hn h, List.drop_drop, Nat.succ_mul, Nat.add_comm]

theorem leftover_length (n : Nat) (x : List RawByte) : (leftover n x).length = x.length % n := by
  rw [leftover, List.length_drop, Nat.mod_eq_sub_div_mul]

theorem packetBits_length (hn : 1 ≤ n) (x : List RawByte) :
    (packetBits n x).length = x.length / n * (8 * n - 2) := by
  induction x using packet_induction hn with
  | short x hlt => simp [packetBits_of_lt hlt, Nat.div_eq_of_lt hlt]
  | packet x hge ih =>
    rw [packetBits_of_le hn hge, List.length_append, ih, decodePacket_length, List.length_take_of_le hge,
      length_div_eq_succ hn hge, Nat.succ_mul (_ / n), Nat.add_comm]

/-- What fills no packet of the first part waits for the bytes of the second. -/
theorem leftover_append (hn : 1 ≤ n) (x y : List RawByte) :
    leftover n (x ++ y) = leftover n (leftover n x ++ y) := by
  induction x using packet_induction hn with
  | short x hlt => rw [leftover_of_lt hlt]
  | packet x hge ih =>
    rw [leftover_of_le hn hge, leftover_of_le hn (x := x ++ y) (by simp; omega), List.drop_append_of_le_length hge, ih]

theorem packetBits_append (hn : 1 ≤ n) (x y : List RawByte) :
    packetBits n (x ++ y) = packetBits n x ++ packetBits n (leftover n x ++ y) := by
  induction x using packet_induction hn with
  | short x hlt => rw [packetBits_of_lt hlt, leftover_of_lt hlt, List.nil_append]
  | packet x hge ih =>
    rw [packetBits_of_le hn hge, leftover_of_le hn hge, packetBits_of_le hn (x := x ++ y) (by simp; omega),
      List.take_append_of_le_length hge, List.drop_append_of_le_length hge, ih, List.append_assoc]

end

/-! ### FEED and FEED1 -/

/-- Where no packet is ready the closed form of FEED's loop is the state itself. -/
theorem closedForm_of_not_ready {s : State} (h : s.bb.length < s.cfg.packetSize) :
    { s with bb := leftover s.cfg.packetSize s.bb
             bs := s.bs ++ packetBits s.cfg.packetSize s.bb } = s := by
  rw [leftover_of_lt h, packetBits_of_lt h, List.append_nil]

/-- FEED's loop in closed form, when the fuel is enough for every packet in BB. -/
theorem drain_eq {fuel : Nat} {s : State} (hN : 1 ≤ s.cfg.packetSize) (hfuel : s.bb.length ≤ fuel) :
    drain fuel s = { s with bb := leftover s.cfg.packetSize s.bb
                            bs := s.bs ++ packetBits s.cfg.packetSize s.bb } := by
  induction fuel generalizing s with
  | zero => exact (closedForm_of_not_ready (Nat.lt_of_le_of_lt hfuel hN)).symm
  | succ fuel ih =>
    rcases Nat.lt_or_ge s.bb.length s.cfg.packetSize with hlt | hge
    · rw [drain_of_not_ready hlt, closedForm_of_not_ready hlt]
    · have hrest : (s.bb.drop s.cfg.packetSize).length ≤ fuel := by rw [List.length_drop]; omega
      rw [drain_succ_of_ready hge, ih (by exact hN) hrest, leftover_of_le hN hge, packetBits_of_le hN hge,
        List.append_assoc]

/-- FEED in closed form (R136). -/
theorem feed_eq {s : State} (hN : 1 ≤ s.cfg.packetSize) (x : List RawByte) :
    feed x s = { s with bb := leftover s.cfg.packetSize (s.bb ++ x)
                        bs := s.bs ++ packetBits s.cfg.packetSize (s.bb ++ x) } :=
  drain_eq (s := bbAppend x s) hN le_rfl

theorem feed_cfg {s : State} (hN : 1 ≤ s.cfg.packetSize) (x : List RawByte) : (feed x s).cfg = s.cfg := by
  rw [feed_eq hN]

/-- Decoding is eager: FEED leaves less than a packet in BB (R137). -/
theorem feed_bb_length_lt {s : State} (hN : 1 ≤ s.cfg.packetSize) (x : List RawByte) :
    (feed x s).bb.length < s.cfg.packetSize := by
  rw [feed_eq hN, leftover_length]
  exact Nat.mod_lt _ hN

/-- FEED of no bytes changes nothing where no packet is ready. -/
theorem feed_nil {s : State} (hshort : s.bb.length < s.cfg.packetSize) : feed [] s = s := by
  rw [feed_eq (by omega), List.append_nil, closedForm_of_not_ready hshort]

theorem feed_append {s : State} (hN : 1 ≤ s.cfg.packetSize) (a b : List RawByte) :
    feed (a ++ b) s = feed b (feed a s) := by
  rw [feed_eq (s := feed a s) (by rwa [feed_cfg hN]), feed_eq hN, feed_eq hN, ← List.append_assoc,
    leftover_append hN, packetBits_append hN, List.append_assoc]

/-- FEED1 is FEED of one byte (R132). -/
theorem feed_singleton {s : State} (hshort : s.bb.length < s.cfg.packetSize) (b : RawByte) :
    feed [b] s = feed1 b s := by
  have hN : 1 ≤ s.cfg.packetSize := by omega
  by_cases h : s.bb.length + 1 = s.cfg.packetSize
  · have hlen : (s.bb ++ [b]).length = s.cfg.packetSize := by simpa using h
    rw [feed_eq hN, feed1_of_eq h, leftover_of_le hN hlen.ge, packetBits_of_le hN hlen.ge,
      List.drop_of_length_le hlen.le, List.take_of_length_le hlen.le, leftover_of_lt hN, packetBits_of_lt hN,
      List.append_nil]
  · have hlen : (s.bb ++ [b]).length < s.cfg.packetSize := by simp; omega
    rw [feed_eq hN, feed1_of_ne h, leftover_of_lt hlen, packetBits_of_lt hlen, List.append_nil]

/-- FEED is FEED1 of each byte in turn (R134). -/
theorem feed_eq_foldl_feed1 (a : List RawByte) {s : State} (hshort : s.bb.length < s.cfg.packetSize) :
    feed a s = a.foldl (fun u y => feed1 y u) s := by
  induction a generalizing s with
  | nil => exact feed_nil hshort
  | cons y a ih =>
    have hN : 1 ≤ s.cfg.packetSize := by omega
    have hnext : (feed1 y s).bb.length < (feed1 y s).cfg.packetSize := by
      rw [feed1_cfg, ← feed_singleton hshort]
      exact feed_bb_length_lt hN [y]
    calc feed (y :: a) s = feed a (feed [y] s) := feed_append hN [y] a
      _ = feed a (feed1 y s) := by rw [feed_singleton hshort]
      _ = (y :: a).foldl (fun u z => feed1 z u) s := ih hnext

/-- The bits pending after FEED1 (R132). -/
theorem feed1_bs_length (b : RawByte) (s : State) :
    (feed1 b s).bs.length =
      if s.bb.length + 1 = s.cfg.packetSize then s.bs.length + (8 * s.cfg.packetSize - 2) else s.bs.length := by
  by_cases h : s.bb.length + 1 = s.cfg.packetSize
  · rw [if_pos h, feed1_of_eq h, List.length_append, decodePacket_length, List.length_append, List.length_singleton, h]
  · rw [if_neg h, feed1_of_ne h]

/-! ### The capacity -/

theorem bitsFit_eq_false_iff {p : Impl} {cap : Nat} (h : p.bsCap = some cap) (n : Nat) :
    bitsFit p n = false ↔ cap < n := by
  simp [bitsFit, h]

/-- A running core whose timestamp fits refuses RXB for the bit store alone (R138). -/
theorem execRxb_eq_bitStoreFull_iff {b : RawByte} {now : Nat} {s : State} (hrun : s.run = true)
    (hfit : tickFits s.impl now = true) :
    execRxb b now s = .refused .bitStoreFull ↔ bitsFit s.impl (feed1 b s).bs.length = false := by
  rw [execRxb_of_running hrun, hfit]
  cases bitsFit s.impl (feed1 b s).bs.length <;> simp

/-- RXB where every check passes (R204). -/
theorem execRxb_of_fits {b : RawByte} {now : Nat} {s : State} (hrun : s.run = true)
    (hfit : tickFits s.impl now = true) (hbits : bitsFit s.impl (feed1 b s).bs.length = true) :
    execRxb b now s = .next { feed1 b s with la := now, st := .receiving } := by
  rw [execRxb_of_running hrun, hfit, hbits]
  rfl

end Sys2Proof.Machine
end

section
/-! PROOFS. The accumulator: the closed form of FEED, its independence of the chunks, the capacity (R134 to R138). -/

namespace Sys2Proof.Machine

/-- Settles O40: the loop pops packets from the front of BB until fewer bytes than a packet are left. -/
theorem feedClosedForm : Obligations.FeedClosedForm := by
  unfold Obligations.FeedClosedForm
  intro x s hN
  refine ⟨feed_eq hN x, ?_, feed_bb_length_lt hN x, ?_⟩
  · rw [feed_eq hN, leftover_length]
  · rw [feed_eq hN, List.length_append, packetBits_length hN]

/-- Settles O41: the closed form does not mention the cut, and FEED1 is FEED of one byte. -/
theorem chunkingDoesNotMatter : Obligations.ChunkingDoesNotMatter := by
  unfold Obligations.ChunkingDoesNotMatter
  exact fun a b s hN => ⟨feed_append hN a b, feed_eq_foldl_feed1 a⟩

/-- Settles O18: only the byte that completes a packet lengthens BS, so under the bound on BS no other byte passes the
capacity. -/
theorem rxbIsRefusedExactlyBeyondCapacity : Obligations.RxbIsRefusedExactlyBeyondCapacity := by
  unfold Obligations.RxbIsRefusedExactlyBeyondCapacity
  intro b now s hrun hfit
  refine ⟨fun hcap => ⟨_, execRxb_of_fits hrun hfit (bitsFit_of_unbounded hcap _)⟩, fun cap hcap hbs => ?_⟩
  rw [exec_rxb, execRxb_eq_bitStoreFull_iff hrun hfit, bitsFit_eq_false_iff hcap, feed1_bs_length]
  by_cases hcomplete : s.bb.length + 1 = s.cfg.packetSize
  · simp [hcomplete]
  · simp [hcomplete, hbs]

end Sys2Proof.Machine
end

section
/-! SUPPORT. The FrameTimer's checks as propositions, and POLL in a running core by cases: the facts that the proofs
about timestamps cite (R152, R157, R206). -/

namespace Sys2Proof.Machine

theorem isQuiescent_iff (now thr : Nat) (s : State) : isQuiescent now thr s = true ↔ s.la + thr < now :=
  decide_eq_true_iff

theorem tickFits_eq_false_iff {p : Impl} {w : Nat} (h : p.tsWidth = some w) (t : Nat) :
    tickFits p t = false ↔ 2 ^ w ≤ t := by
  simp [tickFits, h]

/-- POLL's check fails as soon as one of the two timestamps it computes with does not fit. -/
theorem pollTimesFit_eq_false_iff {s : State} {w : Nat} (h : s.impl.tsWidth = some w) (now : Nat) :
    pollTimesFit now s = false ↔ 2 ^ w ≤ now ∨ 2 ^ w ≤ s.la + s.cfg.qTicks := by
  rw [pollTimesFit, Bool.and_eq_false_iff, tickFits_eq_false_iff h, tickFits_eq_false_iff h]

/-- POLL in a running core: its refusal, else the finalization or the sleep (R206). -/
theorem execPoll_of_running {s : State} (h : s.run = true) (now : Nat) :
    execPoll now s =
      if pollTimesFit now s = false then .refused .timestampOverflow
      else if quiescent now s && pending s then .next (finalize now s)
      else .next (out (.sleep s.cfg.pTicks) s) := by
  simp [execPoll, h]

end Sys2Proof.Machine
end

section
/-! PROOFS. The FrameTimer: timestamps beyond W_T, and the quiescence test (R152, R153, R157). -/

namespace Sys2Proof.Machine

/-- Settles O19: the check of the timestamps comes first in a running core, before anything the event does. -/
theorem timestampsBeyondTheirWidthAreRefused : Obligations.TimestampsBeyondTheirWidthAreRefused := by
  unfold Obligations.TimestampsBeyondTheirWidthAreRefused
  intro s w now b hrun hw
  refine ⟨fun hnow => ?_, fun htimes => ?_⟩
  · rw [exec_rxb, execRxb_of_running hrun, if_pos ((tickFits_eq_false_iff hw now).mpr hnow)]
  · rw [exec_poll, execPoll_of_running hrun, if_pos ((pollTimesFit_eq_false_iff hw now).mpr htimes)]

/-- Settles O23: the test adds the threshold to LA where the spec subtracts LA from `now`, so no difference is
truncated, and a `now` before LA is not beyond LA. -/
theorem quiescenceIsTheRealComparison : Obligations.QuiescenceIsTheRealComparison := by
  unfold Obligations.QuiescenceIsTheRealComparison
  intro now thr s
  refine ⟨?_, fun hback => ?_⟩
  · rw [isQuiescent_iff]
    omega
  · rw [← Bool.not_eq_true, isQuiescent_iff]
    omega

end Sys2Proof.Machine
end

section
/-! SUPPORT. The pad count by its cases, each step of the assembler by the element at a position, and the frame ASSEMBLE
makes, read off these steps: the facts about grids that the proofs below cite (R166 to R178). -/

namespace Sys2Proof.Machine

/-! ### PAD -/

/-- PAD appends nothing exactly when the last line is complete (R166). -/
theorem padCount_eq_zero_iff {n h : Nat} (hh : 1 ≤ h) : padCount n h = 0 ↔ n % h = 0 := by
  have hmod : n % h < h := Nat.mod_lt n hh
  rcases Nat.eq_zero_or_pos (n % h) with hzero | hpos
  · simp [padCount, hzero]
  · rw [padCount, Nat.mod_eq_of_lt (by omega)]
    omega

@[simp] theorem padCount_zero (h : Nat) : padCount 0 h = 0 := by simp [padCount]

/-- The only line is completed (R166). -/
theorem padCount_of_lt {n h : Nat} (hpos : 0 < n) (hlt : n < h) : padCount n h = h - n := by
  rw [padCount, Nat.mod_eq_of_lt hlt, Nat.mod_eq_of_lt (by omega)]

/-- PAD reaches a multiple of the height (R166). -/
theorem pad_length_mod (bits : BitSequence) {h : Nat} (hh : 1 ≤ h) : (pad bits h).1.length % h = 0 := by
  rw [pad_length]
  exact Nat.mod_eq_zero_of_dvd (dvd_add_padCount hh)

/-- Padding a padded sequence appends nothing (R182). -/
theorem pad_pad (bits : BitSequence) {h : Nat} (hh : 1 ≤ h) : pad (pad bits h).1 h = ((pad bits h).1, 0) := by
  have hp : padCount (pad bits h).1.length h = 0 := (padCount_eq_zero_iff hh).mpr (pad_length_mod bits hh)
  rw [pad, hp, List.replicate_zero, List.append_nil]

/-- The bits after the given ones are zeros. -/
theorem pad_getD_of_le {bits : BitSequence} (h : Nat) {k : Nat} (hk : bits.length ≤ k) :
    (pad bits h).1.getD k false = false := by
  rw [pad, List.getD_append_right _ _ _ _ hk, List.getD_eq_getElem?_getD, List.getElem?_replicate]
  split <;> rfl

/-! ### Positions under the steps -/

theorem pixelAt_of_getElem? {α : Type} {g : Grid α} {i : Nat} {row : List α} (h : g[i]? = some row) (j : Nat) :
    pixelAt g i j = row[j]? := by
  rw [pixelAt, h, Option.bind_some]

/-- A value step acts on each element alone (R184). -/
theorem pixelAt_map {α β : Type} (f : α → β) (g : Grid α) (i j : Nat) :
    pixelAt (g.map (List.map f)) i j = (pixelAt g i j).map f := by
  cases hrow : g[i]? <;> simp [pixelAt, hrow]

/-- RESHAPE by row and column (R168). -/
theorem pixelAt_reshape {α : Type} (pb : List α) {h r c : Nat} (hr : r < pb.length / h) (hc : c < h) :
    pixelAt (reshape pb h) r c = pb[r * h + c]? := by
  have hrow : (reshape pb h)[r]? = some ((pb.drop (r * h)).take h) := by simp [reshape, hr]
  rw [pixelAt_of_getElem? hrow, List.getElem?_take_of_lt hc, List.getElem?_drop]

/-- ROT270 by row and column (R173). -/
theorem pixelAt_rot270 {α : Type} {h : Nat} {v : Grid α} {i : Nat} (hv : ∀ row ∈ v, row.length = h) (hi : i < h)
    (j : Nat) : pixelAt (rot270 h v) i j = pixelAt v j (h - 1 - i) := by
  have hrow : (rot270 h v)[i]? = some (v.filterMap fun row => row[h - 1 - i]?) := by simp [rot270, hi]
  have hlong : ∀ row ∈ v, h - 1 - i < row.length := fun row hmem => by rw [hv row hmem]; omega
  rw [pixelAt_of_getElem? hrow, filterMap_getElem?_eq v _ hlong]

theorem rot270_row_length {α : Type} {h : Nat} {v : Grid α} {row : List α} (hv : ∀ r ∈ v, r.length = h)
    (hrow : row ∈ rot270 h v) : row.length = v.length := by
  simp only [rot270, List.mem_map, List.mem_range] at hrow
  obtain ⟨i, hi, rfl⟩ := hrow
  exact filterMap_getElem?_length v _ fun r hmem => by rw [hv r hmem]; omega

/-- MIRROR by row and column (R175). -/
theorem pixelAt_mirror {α : Type} {w : Nat} {b : Grid α} (hb : ∀ row ∈ b, row.length = w) (i : Nat) {j : Nat}
    (hj : j < w) : pixelAt (mirror b) i j = pixelAt b i (w - 1 - j) := by
  cases hrow : b[i]? with
  | none => simp [pixelAt, mirror, hrow]
  | some row =>
    have hlen : row.length = w := hb row (List.mem_of_getElem? hrow)
    have hflip : (mirror b)[i]? = some row.reverse := by simp [mirror, hrow]
    rw [pixelAt_of_getElem? hflip, pixelAt_of_getElem? hrow, List.getElem?_reverse (by omega), hlen]

theorem mirror_mirror {α : Type} (b : Grid α) : mirror (mirror b) = b := by
  simp [mirror]

theorem mirror_row_length {α : Type} {w : Nat} {b : Grid α} {row : List α} (hb : ∀ r ∈ b, r.length = w)
    (hrow : row ∈ mirror b) : row.length = w := by
  obtain ⟨r, hr, rfl⟩ := List.mem_map.mp hrow
  rw [List.length_reverse, hb r hr]

/-- Rotation and mirroring together reflect about the anti-diagonal (R178). -/
theorem pixelAt_mirror_rot270 {α : Type} {h : Nat} {v : Grid α} {i j : Nat} (hv : ∀ row ∈ v, row.length = h)
    (hi : i < h) (hj : j < v.length) :
    pixelAt (mirror (rot270 h v)) i j = pixelAt v (v.length - 1 - j) (h - 1 - i) := by
  rw [pixelAt_mirror (fun _ hrow => rot270_row_length hv hrow) i hj, pixelAt_rot270 hv hi]

/-! ### The value steps as one map, which the orientation steps commute with -/

/-- The pixel of a received or padding bit (R171). -/
def bitPixel (b : BitValue) : Pixel := if b then 0#8 else 255#8

theorem invert_eq_map (a : Grid BitValue) : invert a = a.map (List.map not) := rfl

theorem scale_invert_eq_map (a : Grid BitValue) : scale (invert a) = a.map (List.map bitPixel) := by
  have hbit : ∀ b : BitValue, (if !b then 255#8 else 0#8) = bitPixel b := by decide
  simp only [scale, invert, List.map_map, Function.comp_def, hbit]

theorem mirror_map {α β : Type} (f : α → β) (g : Grid α) :
    mirror (g.map (List.map f)) = (mirror g).map (List.map f) := by
  simp [mirror, Function.comp_def]

theorem rot270_map {α β : Type} (f : α → β) (h : Nat) (g : Grid α) :
    rot270 h (g.map (List.map f)) = (rot270 h g).map (List.map f) := by
  simp [rot270, List.filterMap_map, List.map_filterMap, Function.comp_def]

/-! ### ASSEMBLE -/

/-- ASSEMBLE answers a frame for a positive height only, and then the frame of R177. -/
theorem assemble_ok {bits : BitSequence} {h : Nat} {f : Frame} (hf : assemble bits h = .ok f) :
    1 ≤ h ∧ f =
      { grid := mirror (rot270 h ((reshape (pad bits h).1 h).map (List.map bitPixel)))
        width := (pad bits h).1.length / h
        height := h
        bitCount := bits.length
        padCount := padCount bits.length h } := by
  rcases Nat.eq_zero_or_pos h with rfl | hh
  · cases hf
  · rw [assemble_of_pos hh, scale_invert_eq_map] at hf
    exact ⟨hh, (Except.ok.inj hf).symm⟩

/-- ASSEMBLE's only error (R185). -/
theorem assemble_eq_error_iff {bits : BitSequence} {h : Nat} {k : ErrKind} :
    assemble bits h = .error k ↔ h = 0 ∧ k = .config := by
  rcases Nat.eq_zero_or_pos h with rfl | hh
  · simp [assemble, eq_comm]
  · simp [assemble_of_pos hh, Nat.ne_of_gt hh]

section

variable {bits : BitSequence} {h : Nat} {f : Frame}

/-- The division of R167 is exact. -/
theorem assemble_width_mul (hf : assemble bits h = .ok f) : f.width * h = bits.length + padCount bits.length h := by
  obtain ⟨hh, rfl⟩ := assemble_ok hf
  rw [pad_length]
  exact Nat.div_mul_cancel (dvd_add_padCount hh)

/-- The rows before orientation, value steps included, have the height's length. -/
theorem reshape_map_row_length {α β : Type} {g : α → β} {pb : List α} {row : List β}
    (hrow : row ∈ (reshape pb h).map (List.map g)) : row.length = h := by
  obtain ⟨r, hr, rfl⟩ := List.mem_map.mp hrow
  rw [List.length_map, reshape_row_length hr]

theorem assemble_row_length (hf : assemble bits h = .ok f) {row : List Pixel} (hrow : row ∈ f.grid) :
    row.length = f.width := by
  obtain ⟨-, rfl⟩ := assemble_ok hf
  have hrot := mirror_row_length (fun _ => rot270_row_length fun _ => reshape_map_row_length) hrow
  rw [hrot, List.length_map, reshape_length]

/-- The flat index of R178 is within the padded sequence. -/
theorem antiDiagonal_index_lt {w i j : Nat} (hi : i < h) (hj : j < w) :
    (w - 1 - j) * h + (h - 1 - i) < w * h :=
  calc (w - 1 - j) * h + (h - 1 - i)
      < (w - 1 - j + 1) * h := by rw [Nat.succ_mul]; omega
    _ ≤ w * h := Nat.mul_le_mul_right h (Nat.sub_one_sub_lt_of_lt hj)

/-- The closed form of the emitted grid (R178). -/
theorem assemble_pixelAt (hf : assemble bits h = .ok f) {i j : Nat} (hi : i < h) (hj : j < f.width) :
    pixelAt f.grid i j = some (bitPixel ((pad bits h).1.getD ((f.width - 1 - j) * h + (h - 1 - i)) false)) := by
  have hwidth : f.width * h = (pad bits h).1.length := (assemble_width_mul hf).trans (pad_length bits h).symm
  have hindex : (f.width - 1 - j) * h + (h - 1 - i) < (pad bits h).1.length :=
    (antiDiagonal_index_lt hi hj).trans_eq hwidth
  obtain ⟨-, rfl⟩ := assemble_ok hf
  dsimp only at hj hindex ⊢
  rw [pixelAt_mirror_rot270 (fun _ => reshape_map_row_length) hi (by simpa using hj), List.length_map, reshape_length,
    pixelAt_map, pixelAt_reshape _ (Nat.sub_one_sub_lt_of_lt hj) (Nat.sub_one_sub_lt_of_lt hi),
    List.getElem?_eq_getElem hindex, Option.map_some, List.getD_eq_getElem _ _ hindex]

end

end Sys2Proof.Machine
end

section
/-! PROOFS. The image assembler: padding, dimensions, the index maps, the closed form of the grid, and the height error
(R165 to R185). -/

namespace Sys2Proof.Machine

/-- Settles O43: the pad count is the distance to the next multiple of the height. -/
theorem padCompletesTheLastLine : Obligations.PadCompletesTheLastLine := by
  unfold Obligations.PadCompletesTheLastLine
  intro bits h hh
  exact ⟨padCount_lt hh, pad_length bits h, pad_length_mod bits hh, rfl, padCount_eq_zero_iff hh, padCount_of_lt⟩

/-- Settles O44: `W * H` is the padded length, less than a line above the number of bits. -/
theorem frameDimensions : Obligations.FrameDimensions := by
  unfold Obligations.FrameDimensions
  intro bits h f hf
  have hwidth := assemble_width_mul hf
  have hrows := fun row => assemble_row_length hf (row := row)
  obtain ⟨hh, rfl⟩ := assemble_ok hf
  have hpad : padCount bits.length h < h := padCount_lt hh
  refine ⟨hwidth.trans (pad_length bits h).symm, ?_, ?_, rfl, ?_, hrows, reshape_length _ _,
    fun row => reshape_row_length⟩
  · exact (Nat.div_eq_of_lt_le (by omega) (by rw [Nat.succ_mul]; omega)).symm
  · constructor
    · intro hzero
      rw [hzero] at hwidth
      exact List.eq_nil_of_length_eq_zero (by omega)
    · rintro rfl
      simp
  · rw [mirror_length, rot270_length]

/-- Settles O45: flat index `i` is `(i div H) * H + i mod H`. -/
theorem reshapeIndexMap : Obligations.ReshapeIndexMap := by
  unfold Obligations.ReshapeIndexMap
  intro pb h hh hmod
  refine ⟨reshape_length pb h, fun i hi => ?_, fun r c => pixelAt_reshape pb⟩
  have hrow : i / h < pb.length / h := Nat.div_lt_div_of_lt_of_dvd (Nat.dvd_of_mod_eq_zero hmod) hi
  rw [pixelAt_reshape pb hrow (Nat.mod_lt i hh), Nat.div_add_mod']

/-- Settles O46: row `i` of the turned grid picks element `h - 1 - i` of every row, and the flip reverses each row. -/
theorem rotationAndMirrorIndexMaps : Obligations.RotationAndMirrorIndexMaps := by
  unfold Obligations.RotationAndMirrorIndexMaps
  exact ⟨fun _ _ _ j hv hi _ => pixelAt_rot270 hv hi j, fun _ _ i _ hb hj => pixelAt_mirror hb i hj, mirror_mirror⟩

/-- Settles O47: the converse direction is the closed form at the position of flat index `k`. -/
theorem gridClosedForm : Obligations.GridClosedForm := by
  unfold Obligations.GridClosedForm
  refine ⟨fun bits h f hf => ⟨fun i j hi hj => assemble_pixelAt hf hi hj, fun k hk => ?_⟩,
    fun h v i j => pixelAt_mirror_rot270⟩
  obtain ⟨hh, -⟩ := assemble_ok hf
  have hcol : k / h < f.width := by
    rw [Nat.div_lt_iff_lt_mul hh, assemble_width_mul hf, ← pad_length]
    exact hk
  have hrow : k % h < h := Nat.mod_lt k hh
  have hindex : (f.width - 1 - (f.width - 1 - k / h)) * h + (h - 1 - (h - 1 - k % h)) = k := by
    rw [Nat.sub_sub_self (Nat.le_sub_one_of_lt hcol), Nat.sub_sub_self (Nat.le_sub_one_of_lt hrow), Nat.div_add_mod']
  rw [assemble_pixelAt hf (Nat.sub_one_sub_lt_of_lt hrow) (Nat.sub_one_sub_lt_of_lt hcol), hindex]
  rfl

/-- Settles O48: the pixel in row `k` of column 0 is bit `W * H - 1 - k` of the padded sequence, a padding bit. -/
theorem paddingLandsTopLeft : Obligations.PaddingLandsTopLeft := by
  unfold Obligations.PaddingLandsTopLeft
  intro bits h f hf k hk
  have hwidth := assemble_width_mul hf
  obtain ⟨hh, hframe⟩ := assemble_ok hf
  have hpad : k < padCount bits.length h := by simpa [hframe] using hk
  have hrow : k < h := hpad.trans (padCount_lt hh)
  have hpos : 0 < f.width := Nat.pos_of_ne_zero fun hzero => by
    rw [hzero] at hwidth
    omega
  have hlast : bits.length ≤ (f.width - 1 - 0) * h + (h - 1 - k) := by
    rw [Nat.sub_zero, Nat.sub_mul]
    have := Nat.le_mul_of_pos_left h hpos
    omega
  rw [assemble_pixelAt hf hrow hpos, pad_getD_of_le h hlast]
  rfl

/-- Settles O49: the padded sequence is its own padded sequence. -/
theorem paddingIsIdempotent : Obligations.PaddingIsIdempotent := by
  unfold Obligations.PaddingIsIdempotent
  intro bits h f hf
  have hwidth := assemble_width_mul hf
  obtain ⟨hh, rfl⟩ := assemble_ok hf
  refine ⟨fun hmod => ?_, ?_⟩
  · have hnone : padCount bits.length h = 0 := (padCount_eq_zero_iff hh).mpr hmod
    rw [hnone, Nat.add_zero] at hwidth
    exact ⟨hnone, by rw [pad_length, hnone, Nat.add_zero], hwidth⟩
  · rw [assemble_of_pos hh, pad_pad bits hh, scale_invert_eq_map, pad_length]

/-- Settles O51: the value steps are one map over the elements, and a quarter turn of a 1 by 2 grid with two different
elements tells the two orders apart. -/
theorem valueStepsCommuteWithOrientation : Obligations.ValueStepsCommuteWithOrientation := by
  unfold Obligations.ValueStepsCommuteWithOrientation
  refine ⟨fun h a => ⟨?_, ?_⟩, [[false, true]], by decide, by decide⟩
  · simp only [scale_invert_eq_map, rot270_map, mirror_map]
  · rw [invert_eq_map, rot270_map, mirror_map, ← invert_eq_map, ← invert_eq_map]
    simp only [scale_invert_eq_map, rot270_map, mirror_map]

/-- Settles O52: a running core that meets the invariant has a legal configuration, so a positive height. -/
theorem assembleFailsOnlyForHeightZero : Obligations.AssembleFailsOnlyForHeightZero := by
  unfold Obligations.AssembleFailsOnlyForHeightZero
  refine ⟨fun _ _ _ => assemble_eq_error_iff, fun s hinv hrun => ?_⟩
  obtain ⟨-, hheight⟩ := (cfgOk_iff s.cfg).mp (hinv.running_cfgOk hrun)
  exact ⟨_, assemble_of_pos hheight⟩

/-- Settles O50: no bits, no line and no padding, so every row is empty. -/
theorem emptySequenceAssembles : Obligations.EmptySequenceAssembles := by
  unfold Obligations.EmptySequenceAssembles
  intro h hh
  have hpad : pad [] h = ([], 0) := by simp [pad]
  rw [assemble_of_pos hh, hpad]
  simp [reshape, scale, invert, rot270, mirror]

end Sys2Proof.Machine
end

section
/-! SUPPORT. What an event that answers a next state has done, said once as a relation with a case per outcome, and what
each case outputs (R200 to R211). -/

namespace Sys2Proof.Machine

/-! ### The effect of an event -/

/-- The event takes the state to that state: the rows of R201 and R204 to R211, and ASSEMBLE's failure (R185). -/
inductive EventEffect (s : State) : Instr → State → Prop
  /-- A halted core ignores the event (R201). -/
  | ignored (i : Instr) (hrun : s.run = false) : EventEffect s i s
  /-- A POLL that does not finalize (R207, R208). -/
  | slept (now : Nat) (hrun : s.run = true) (hwait : now ≤ s.la + s.cfg.qTicks ∨ s.bs = []) :
      EventEffect s (.poll now) { s with outs := s.outs ++ [.sleep s.cfg.pTicks] }
  /-- A POLL that finalizes (R205). -/
  | finalized (now : Nat) (f : Frame) (hrun : s.run = true) (hquiet : s.la + s.cfg.qTicks < now) (hbits : s.bs ≠ [])
      (hframe : assemble s.bs s.cfg.height = .ok f) :
      EventEffect s (.poll now) { s with bb := [], bs := [], la := now, st := .idle, outs := s.outs ++ [.emit f] }
  /-- A POLL that fails to finalize, which no running core meets (R165, R185). -/
  | heightError (now : Nat) (hrun : s.run = true) (hquiet : s.la + s.cfg.qTicks < now) (hbits : s.bs ≠ [])
      (hheight : s.cfg.height = 0) :
      EventEffect s (.poll now)
        { s with st := .finalizing, err := .config, run := false, outs := s.outs ++ [.report 3] }
  /-- An RXB (R204). -/
  | fed (b : RawByte) (now : Nat) (hrun : s.run = true) (hfits : bitsFit s.impl (feed1 b s).bs.length = true) :
      EventEffect s (.rxb b now) { feed1 b s with la := now, st := .receiving }
  /-- A CANCEL (R210). -/
  | cancelled (hrun : s.run = true) : EventEffect s .cancel { s with run := false, outs := s.outs ++ [.close] }
  /-- An RXERR (R211). -/
  | readFailed (hrun : s.run = true) :
      EventEffect s .rxerr { s with err := .transportRead, run := false, outs := s.outs ++ [.close, .report 2] }

/-- Every event that answers a next state has one of these effects. -/
theorem eventEffect_of_exec {i : Instr} {s t : State} (h : exec i s = .next t) : EventEffect s i t := by
  rcases Bool.eq_false_or_eq_true s.run with hrun | hrun
  · cases i with
    | poll now =>
      rcases execPoll_next h with ⟨hhalt, -⟩ | ⟨-, -, hquiet, hbits, rfl⟩ | ⟨-, -, hwait, rfl⟩
      · cases hrun.symm.trans hhalt
      · rcases Nat.eq_zero_or_pos s.cfg.height with hzero | hpos
        · rw [finalize_of_height_zero hzero]
          exact .heightError now hrun hquiet hbits hzero
        · rw [finalize_of_ok (assemble_of_pos hpos)]
          exact .finalized now _ hrun hquiet hbits (assemble_of_pos hpos)
      · exact .slept now hrun hwait
    | rxb b now =>
      rcases execRxb_next h with ⟨hhalt, -⟩ | ⟨-, -, hfits, rfl⟩
      · cases hrun.symm.trans hhalt
      · exact .fed b now hrun hfits
    | cancel =>
      rw [exec_cancel, execCancel_of_running hrun, Host.Outcome.next.injEq] at h
      exact h ▸ .cancelled hrun
    | rxerr =>
      rw [exec_rxerr, execRxerr_of_running hrun, Host.Outcome.next.injEq] at h
      exact h ▸ .readFailed hrun
  · rw [exec_of_halted hrun, Host.Outcome.next.injEq] at h
    exact h ▸ .ignored i hrun

/-- A run of at least one event is that event and the run from the state it answers. -/
theorem runEvents_cons_next {i : Instr} {is : List Instr} {s t : State} (h : runEvents (i :: is) s = .next t) :
    ∃ u : State, exec i s = .next u ∧ runEvents is u = .next t := by
  rcases hexec : exec i s with u | r | r
  · exact ⟨u, rfl, by rwa [runEvents_cons_of_next hexec] at h⟩
  · simp [runEvents, hexec] at h
  · simp [runEvents, hexec] at h

/-- A halted core ignores every event (R201). -/
theorem runEvents_of_halted {s : State} (hrun : s.run = false) (es : List Instr) : runEvents es s = .next s := by
  induction es with
  | nil => rfl
  | cons i es ih => rw [runEvents_cons_of_next (exec_of_halted hrun i), ih]

/-! ### POLL in a running core -/

/-- POLL that is not quiescent or has no bits pending (R207, R208). -/
theorem execPoll_of_waiting {now : Nat} {s : State} (hrun : s.run = true) (hfit : pollTimesFit now s = true)
    (hwait : now ≤ s.la + s.cfg.qTicks ∨ s.bs = []) :
    execPoll now s = .next { s with outs := s.outs ++ [.sleep s.cfg.pTicks] } := by
  rcases hwait with hearly | hbs
  · have hquiet : quiescent now s = false := by
      rw [← Bool.not_eq_true, quiescent_iff]
      omega
    simp [execPoll_of_running hrun, hfit, hquiet, out]
  · exact execPoll_of_no_pending hrun hfit hbs

/-- POLL that is quiescent with bits pending (R205). -/
theorem execPoll_of_finalizing {now : Nat} {s : State} {f : Frame} (hrun : s.run = true)
    (hfit : pollTimesFit now s = true) (hquiet : s.la + s.cfg.qTicks < now) (hbits : s.bs ≠ [])
    (hframe : assemble s.bs s.cfg.height = .ok f) :
    execPoll now s =
      .next { s with bb := [], bs := [], la := now, st := .idle, outs := s.outs ++ [.emit f] } := by
  have hgo : (quiescent now s && pending s) = true := by simp [hquiet, hbits]
  rw [execPoll_of_running hrun, hfit, if_pos hgo, finalize_of_ok hframe]
  rfl

/-! ### The emitted frames -/

@[simp] theorem framesOf_append (as bs : List OutAction) : framesOf (as ++ bs) = framesOf as ++ framesOf bs := by
  induction as with
  | nil => rfl
  | cons a as ih => cases a <;> simp [framesOf, ih]

/-- What an event outputs, as R202 lists it. -/
theorem EventEffect.outs_eq {i : Instr} {s t : State} (h : EventEffect s i t) :
    ∃ new : List OutAction, t.outs = s.outs ++ new ∧
      (new = [] ∨ (∃ f : Frame, new = [.emit f]) ∨ new = [.sleep s.cfg.pTicks] ∨ new = [.close] ∨
        new = [.close, .report 2] ∨ new = [.report 3]) := by
  cases h with
  | ignored => exact ⟨[], by simp⟩
  | slept => exact ⟨_, rfl, by simp⟩
  | finalized => exact ⟨_, rfl, by simp⟩
  | heightError => exact ⟨_, rfl, by simp⟩
  | fed => exact ⟨[], by simp⟩
  | cancelled => exact ⟨_, rfl, by simp⟩
  | readFailed => exact ⟨_, rfl, by simp⟩

/-- Only a POLL emits a frame, and at most one (R219). -/
theorem EventEffect.framesOf_outs {i : Instr} {s t : State} (h : EventEffect s i t) :
    framesOf t.outs = framesOf s.outs ∨
      ∃ (now : Nat) (f : Frame), i = .poll now ∧ framesOf t.outs = framesOf s.outs ++ [f] := by
  cases h with
  | finalized now f => exact .inr ⟨now, f, rfl, by simp [framesOf]⟩
  | _ => exact .inl (by simp [framesOf])

/-- An event that outputs a frame is a finalizing POLL (R205). -/
theorem EventEffect.finalized_of_emit {i : Instr} {s t : State} {f : Frame} (h : EventEffect s i t)
    (houts : t.outs = s.outs ++ [.emit f]) :
    s.run = true ∧ s.bs ≠ [] ∧ assemble s.bs s.cfg.height = .ok f ∧
      ∃ now : Nat, i = .poll now ∧ s.la + s.cfg.qTicks < now ∧
        t = { s with bb := [], bs := [], la := now, st := .idle, outs := s.outs ++ [.emit f] } := by
  cases h with
  | finalized now g hrun hquiet hbits hframe =>
    obtain rfl : g = f := by simpa using houts
    exact ⟨hrun, hbits, hframe, now, rfl, hquiet, rfl⟩
  | _ => simp at houts

/-- ASSEMBLE's frame has its shape (R177, R179). -/
theorem assemble_frameShape {bits : BitSequence} {h : Nat} {f : Frame} (hf : assemble bits h = .ok f) :
    FrameShape f := by
  have hwidth := assemble_width_mul hf
  have hrows := fun row => assemble_row_length hf (row := row)
  obtain ⟨hh, rfl⟩ := assemble_ok hf
  refine ⟨by simp, fun row hrow => ⟨hrows row hrow, fun p hp => ?_⟩, padCount_lt hh, hwidth.symm⟩
  rw [rot270_map, mirror_map] at hrow
  obtain ⟨bitRow, -, rfl⟩ := List.mem_map.mp hrow
  obtain ⟨b, -, rfl⟩ := List.mem_map.mp hp
  cases b
  · exact .inr rfl
  · exact .inl rfl

end Sys2Proof.Machine
end

section
/-! PROOFS. The invariant of the event boundaries, kept by every step (R27, R45, R46, R48, R202, R241, R243). -/

namespace Sys2Proof.Machine

section

variable {s : State}

/-- A running core that meets the invariant has a packet size and a height of at least 1. -/
theorem BoundaryInv.cfg_pos (hinv : BoundaryInv s) (hrun : s.run = true) : 1 ≤ s.cfg.packetSize ∧ 1 ≤ s.cfg.height :=
  (cfgOk_iff s.cfg).mp (hinv.running_cfgOk hrun)

/-- A running core that meets the invariant buffers less than a packet (R45). -/
theorem BoundaryInv.bb_short_of_running (hinv : BoundaryInv s) (hrun : s.run = true) :
    s.bb.length < s.cfg.packetSize :=
  hinv.bb_short (hinv.running_cfgOk hrun)

theorem BoundaryInv.withInput (hinv : BoundaryInv s) (rest : List Stimulus) :
    BoundaryInv (setInput rest s) :=
  { hinv with }

/-- Output keeps the invariant where every frame among it has its shape. -/
theorem BoundaryInv.append_outs (hinv : BoundaryInv s) {new : List OutAction}
    (hnew : ∀ f, OutAction.emit f ∈ new → FrameShape f) : BoundaryInv { s with outs := s.outs ++ new } :=
  { hinv with
    frames_shaped := fun f hf => (List.mem_append.mp hf).elim (hinv.frames_shaped f) (hnew f) }

/-- A running core may halt with any recorded kind but those of reset and of the transport's opening. -/
theorem BoundaryInv.halt (hinv : BoundaryInv s) (hrun : s.run = true) {k : ErrKind} (hconfig : k ≠ .config)
    (hopen : k ≠ .transportOpen) : BoundaryInv { s with run := false, err := k } :=
  { hinv with
    running_cfgOk := nofun
    running_noError := nofun
    config_err_iff := by simp [hconfig, hinv.running_cfgOk hrun]
    err_ne_transportOpen := hopen }

/-- After FEED1 a byte or a packet's bits are in store (R132). -/
theorem feed1_not_empty (b : RawByte) (hN : 1 ≤ s.cfg.packetSize) :
    ¬((feed1 b s).bb = [] ∧ (feed1 b s).bs = []) := by
  rintro ⟨hbb, hbs⟩
  have hlen := feed1_bs_length b s
  by_cases hcomplete : s.bb.length + 1 = s.cfg.packetSize
  · rw [if_pos hcomplete, hbs, List.length_nil] at hlen
    omega
  · simp [feed1_of_ne hcomplete] at hbb

/-- A byte accepted within the capacity keeps the invariant. -/
theorem BoundaryInv.receive (hinv : BoundaryInv s) (hrun : s.run = true) {b : RawByte} {now : Nat}
    (hfits : bitsFit s.impl (feed1 b s).bs.length = true) :
    BoundaryInv { feed1 b s with la := now, st := .receiving } := by
  obtain ⟨hN, -⟩ := hinv.cfg_pos hrun
  have hshort := hinv.bb_short_of_running hrun
  refine
    { running_cfgOk := fun _ => ?_
      running_noError := fun _ => ?_
      config_err_iff := ?_
      err_ne_transportOpen := ?_
      bb_short := fun _ => ?_
      bs_whole := ?_
      st_ne_finalizing := nofun
      idle_iff_empty := ⟨nofun, fun hempty => absurd hempty (feed1_not_empty b hN)⟩
      bs_fits := ?_
      frames_shaped := ?_ }
  · simpa using hinv.running_cfgOk hrun
  · simpa using hinv.running_noError hrun
  · simpa using hinv.config_err_iff
  · simpa using hinv.err_ne_transportOpen
  · simpa [feed_singleton hshort] using feed_bb_length_lt hN [b]
  · dsimp only
    rw [feed1_cfg, feed1_bs_length]
    split
    · exact dvd_add hinv.bs_whole dvd_rfl
    · exact hinv.bs_whole
  · simpa using hfits
  · simpa using hinv.frames_shaped

/-- Every event keeps the invariant. -/
theorem BoundaryInv.of_effect {i : Instr} {t : State} (hinv : BoundaryInv s) (h : EventEffect s i t) :
    BoundaryInv t := by
  cases h with
  | ignored => exact hinv
  | slept => exact hinv.append_outs (by simp)
  | finalized now f hrun hquiet hbits hframe =>
    have hout := hinv.append_outs (new := [.emit f]) (by simpa using assemble_frameShape hframe)
    exact
      { hout with
        bb_short := fun hok => ((cfgOk_iff s.cfg).mp hok).1
        bs_whole := dvd_zero _
        st_ne_finalizing := nofun
        idle_iff_empty := by simp
        bs_fits := bitsFit_zero s.impl }
  | heightError now hrun _ _ hheight =>
    obtain ⟨-, hpos⟩ := hinv.cfg_pos hrun
    omega
  | fed b now hrun hfits => exact hinv.receive hrun hfits
  | cancelled hrun =>
    have hnone := hinv.running_noError hrun
    exact (hinv.halt hrun (k := s.err) (by simp [hnone]) (by simp [hnone])).append_outs (by simp)
  | readFailed hrun => exact (hinv.halt hrun (k := .transportRead) nofun nofun).append_outs (by simp)

end

/-- Settles O29: a reset establishes the invariant anew, and each effect of an event keeps it. -/
theorem stepKeepsTheInvariant : Obligations.StepKeepsTheInvariant := by
  unfold Obligations.StepKeepsTheInvariant
  intro s t hinv h
  rcases step_next h with ⟨-, rfl⟩ | ⟨c, rest, -, rfl⟩ | ⟨w, now, rest, i, -, -, hexec⟩
  · exact hinv
  · exact boundaryInv_applyReset c (hinv.withInput rest).frames_shaped
  · exact (hinv.withInput rest).of_effect (eventEffect_of_exec hexec)

end Sys2Proof.Machine
end

section
/-! PROOFS. The step and the fold of events, and the four events one by one (R200 to R212). -/

namespace Sys2Proof.Machine

/-! ### The step and the fold -/

/-- Settles O9: the case of the step in which an event word is presented. -/
theorem stepRunsTheDecodedEvent : Obligations.StepRunsTheDecodedEvent := by
  unfold Obligations.StepRunsTheDecodedEvent
  intro s w now rest i hinput hdecode
  exact step_of_event hinput hdecode

/-- A step with an event presented is that event on the state that has consumed it, whatever is still to come. -/
theorem step_of_stimulus (i : Instr) (rest : List Stimulus) (s : State) :
    step { s with input := i.stimulus :: rest } = Outcome.withInput rest (exec i s) :=
  calc step { s with input := i.stimulus :: rest }
      = exec i { s with input := rest } := step_of_event rfl (decodeInvertsEncode i)
    _ = Outcome.withInput rest (exec i s) := exec_withInput i rest s

/-- Settles O11, by induction on the events: no meaning looks at the stimuli still to come, so presenting the events in
`input` or listing them is the same. -/
theorem steppingIsTheFoldOfEvents : Obligations.SteppingIsTheFoldOfEvents := by
  unfold Obligations.SteppingIsTheFoldOfEvents
  intro es s rest
  induction es generalizing s with
  | nil => rfl
  | cons i es ih =>
    simp only [List.length_cons, List.map_cons, List.cons_append, runSteps, runEvents, step_of_stimulus,
      exec_withInput i rest]
    cases exec i s with
    | next t => exact ih t
    | fault r => rfl
    | refused r => rfl

/-- Settles O12: waiting outputs nothing, a reset at most its report, an event what its effect lists. -/
theorem stepOnlyAppendsOutputs : Obligations.StepOnlyAppendsOutputs := by
  unfold Obligations.StepOnlyAppendsOutputs
  intro s t h
  rcases step_next h with ⟨-, rfl⟩ | ⟨c, rest, -, rfl⟩ | ⟨w, now, rest, i, -, -, hexec⟩
  · exact ⟨[], by simp⟩
  · rw [applyReset_eq]
    cases cfgOk c
    · exact ⟨[.report 3], by simp⟩
    · exact ⟨[], by simp⟩
  · exact (eventEffect_of_exec hexec).outs_eq

/-- Settles O16: a halted core answers each event with itself. -/
theorem haltedCoreIgnoresEveryEvent : Obligations.HaltedCoreIgnoresEveryEvent := by
  unfold Obligations.HaltedCoreIgnoresEveryEvent
  exact fun s es hrun => runEvents_of_halted hrun es

/-! ### RXB and the chunked read -/

/-- FEED1 by the image bits it moves (R132, R87). -/
theorem feed1_eq_imageBits (b : RawByte) (s : State) :
    feed1 b s =
      if s.bb.length + 1 = s.cfg.packetSize then
        { s with bb := []
                 bs := s.bs ++ (List.range (8 * s.cfg.packetSize - 2)).map (imageBit (s.bb ++ [b])) }
      else { s with bb := s.bb ++ [b] } := by
  by_cases hcomplete : s.bb.length + 1 = s.cfg.packetSize
  · rw [if_pos hcomplete, feed1_of_eq hcomplete, decodePacket_eq_map, List.length_append, List.length_singleton,
      hcomplete]
  · rw [if_neg hcomplete, feed1_of_ne hcomplete]

/-- Settles O17: FEED1 by the image bits it moves, then the restart of the timer. -/
theorem rxbFeedsOneByteAndRestartsTheTimer : Obligations.RxbFeedsOneByteAndRestartsTheTimer := by
  unfold Obligations.RxbFeedsOneByteAndRestartsTheTimer
  intro b now s hrun hfit hbits
  rw [← feed1_bs_length b] at hbits
  refine ⟨_, execRxb_of_fits hrun hfit hbits, ?_, fun τ hτ => ?_⟩
  · rw [feed1_eq_imageBits]
    split <;> rfl
  · rw [← Bool.not_eq_true, quiescent_iff]
    simpa using hτ

/-- FEED neither reads nor writes the timer and the loop state. -/
theorem feed_withTimer {s : State} (hN : 1 ≤ s.cfg.packetSize) (x : List RawByte) (a : Nat) (v : LoopState) :
    feed x { s with la := a, st := v } = { feed x s with la := a, st := v } := by
  rw [feed_eq hN, feed_eq (s := { s with la := a, st := v }) hN]

theorem length_bs_le_feed {s : State} (hN : 1 ≤ s.cfg.packetSize) (x : List RawByte) :
    s.bs.length ≤ (feed x s).bs.length := by
  simp [feed_eq hN]

/-- FEED takes its chunk byte by byte (R134). -/
theorem feed_cons {s : State} (hshort : s.bb.length < s.cfg.packetSize) (b : RawByte) (chunk : List RawByte) :
    feed (b :: chunk) s = feed chunk (feed1 b s) := by
  rw [← feed_singleton hshort, ← feed_append (by omega), List.singleton_append]

/-- FEED1 leaves less than a packet in BB (R137). -/
theorem feed1_bb_length_lt {s : State} (hshort : s.bb.length < s.cfg.packetSize) (b : RawByte) :
    (feed1 b s).bb.length < s.cfg.packetSize := by
  rw [← feed_singleton hshort]
  exact feed_bb_length_lt (by omega) [b]

/-- A run of RXB events at one time is FEED of their bytes and one restart of the timer (R212). -/
theorem runEvents_rxEvents (b : RawByte) (chunk : List RawByte) {now : Nat} {s : State} (hrun : s.run = true)
    (hshort : s.bb.length < s.cfg.packetSize) (hfit : tickFits s.impl now = true)
    (hbits : bitsFit s.impl (feed (b :: chunk) s).bs.length = true) :
    runEvents (rxEvents (b :: chunk) now) s = .next { feed (b :: chunk) s with la := now, st := .receiving } := by
  induction chunk generalizing b s with
  | nil =>
    rw [feed_singleton hshort] at hbits ⊢
    exact runEvents_cons_of_next (i := .rxb b now) (execRxb_of_fits hrun hfit hbits) []
  | cons c chunk ih =>
    rw [feed_cons hshort] at hbits ⊢
    have hN : 1 ≤ (feed1 b s).cfg.packetSize := by
      rw [feed1_cfg]
      omega
    have hfirst : bitsFit s.impl (feed1 b s).bs.length = true :=
      bitsFit_mono (length_bs_le_feed hN (c :: chunk)) hbits
    have htimer := feed_withTimer hN (c :: chunk) now .receiving
    calc runEvents (rxEvents (b :: c :: chunk) now) s
        = runEvents (rxEvents (c :: chunk) now) { feed1 b s with la := now, st := .receiving } :=
          runEvents_cons_of_next (i := .rxb b now) (execRxb_of_fits hrun hfit hfirst) _
      _ = .next { feed (c :: chunk) { feed1 b s with la := now, st := .receiving } with
                  la := now, st := .receiving } :=
          ih c (by simpa using hrun) (by simpa using feed1_bb_length_lt hshort b) (by simpa using hfit)
            (by rw [htimer]; simpa using hbits)
      _ = .next { feed (c :: chunk) (feed1 b s) with la := now, st := .receiving } := by rw [htimer]

/-- Settles O42: a chunk that is not empty has a first byte; the source answers an empty one with POLL. -/
theorem chunkedReadIsItsBytes : Obligations.ChunkedReadIsItsBytes := by
  unfold Obligations.ChunkedReadIsItsBytes
  refine ⟨fun chunk now s hchunk hrun _ hshort hfit hbits => ?_, fun now => ⟨rfl, rfl⟩⟩
  cases chunk with
  | nil => exact absurd rfl hchunk
  | cons b chunk => exact runEvents_rxEvents b chunk hrun hshort hfit hbits

/-! ### POLL -/

/-- Settles O20: either condition makes POLL's test fail. -/
theorem pollWithoutFinalizationOnlySleeps : Obligations.PollWithoutFinalizationOnlySleeps := by
  unfold Obligations.PollWithoutFinalizationOnlySleeps
  exact fun now s hrun hfit hwait => execPoll_of_waiting hrun hfit hwait

/-- Beyond the received bits the padded sequence has zeros, as the default has (R166). -/
theorem pad_getD (bits : BitSequence) (h k : Nat) : (pad bits h).1.getD k false = bits.getD k false := by
  rcases Nat.lt_or_ge k bits.length with hlt | hge
  · exact List.getD_append _ _ _ _ hlt
  · rw [pad_getD_of_le h hge, List.getD_eq_default _ _ hge]

/-- Bits pending at an event boundary are at least one packet's (R46). -/
theorem BoundaryInv.packet_le_bs {s : State} (hinv : BoundaryInv s) (hbits : s.bs ≠ []) :
    8 * s.cfg.packetSize - 2 ≤ s.bs.length :=
  Nat.le_of_dvd (List.length_pos_iff.mpr hbits) hinv.bs_whole

/-- Settles O21: the frame is ASSEMBLE's of the whole of BS, with its dimensions and its closed form. -/
theorem quiescentPollEmitsTheFrame : Obligations.QuiescentPollEmitsTheFrame := by
  unfold Obligations.QuiescentPollEmitsTheFrame
  intro now s hrun hfit hheight hbits hquiet
  obtain ⟨f, hframe⟩ : ∃ f, assemble s.bs s.cfg.height = .ok f := ⟨_, assemble_of_pos hheight⟩
  obtain ⟨-, hwidth, hwidthZero, hfh, -⟩ := frameDimensions s.bs s.cfg.height f hframe
  have hcount : f.bitCount = s.bs.length := by rw [(assemble_ok hframe).2]
  have hpad : f.padCount = padCount s.bs.length s.cfg.height := by rw [(assemble_ok hframe).2]
  refine ⟨f, execPoll_of_finalizing hrun hfit hquiet hbits hframe, assemble_frameShape hframe, hfh, hcount, hwidth,
    fun i j hi hj => ?_, ?_, fun hinv => ⟨?_, ?_⟩⟩
  · rw [assemble_pixelAt hframe hi hj, pad_getD]
    rfl
  · rw [hpad, Nat.one_le_iff_ne_zero, Ne, padCount_eq_zero_iff hheight]
  · obtain ⟨hN, -⟩ := hinv.cfg_pos hrun
    have hpacket := hinv.packet_le_bs hbits
    omega
  · exact Nat.one_le_iff_ne_zero.mpr fun hzero => hbits (hwidthZero.mp hzero)

/-- Settles O22: of a POLL's effects the finalization alone outputs a frame, and it leaves no bit pending. -/
theorem pollAfterFinalizationEmitsNothing : Obligations.PollAfterFinalizationEmitsNothing := by
  unfold Obligations.PollAfterFinalizationEmitsNothing
  intro now s t f _ hexec houts
  obtain ⟨hrun, -, -, _, hpoll, -, rfl⟩ := (eventEffect_of_exec hexec).finalized_of_emit houts
  obtain rfl := Instr.poll.inj hpoll
  refine ⟨rfl, rfl, rfl, rfl, fun now' u hexec' => ?_⟩
  cases eventEffect_of_exec hexec' with
  | ignored _ hhalt => cases hrun.symm.trans hhalt
  | slept => rfl
  | finalized _ _ _ _ hbits => exact absurd rfl hbits
  | heightError _ _ _ hbits => exact absurd rfl hbits

/-! ### CANCEL and RXERR -/

/-- Settles O24: the halted core after CANCEL ignores what follows. -/
theorem cancelHaltsAndReleases : Obligations.CancelHaltsAndReleases := by
  unfold Obligations.CancelHaltsAndReleases
  exact fun s hrun => ⟨_, execCancel_of_running hrun, rfl, runEvents_of_halted rfl⟩

/-- Settles O25: the halted core after the read failure ignores what follows. -/
theorem rxerrRaisesTheReadFailure : Obligations.RxerrRaisesTheReadFailure := by
  unfold Obligations.RxerrRaisesTheReadFailure
  exact fun s hrun => ⟨_, execRxerr_of_running hrun, rfl, rfl, runEvents_of_halted rfl⟩

/-! ### The loop state -/

/-- POLL's test where POLL only sleeps (R206). -/
theorem not_quiescent_and_pending {now : Nat} {s : State} (hwait : now ≤ s.la + s.cfg.qTicks ∨ s.bs = []) :
    ¬(quiescent now s = true ∧ pending s = true) := by
  rw [quiescent_iff, pending_iff]
  rintro ⟨hquiet, hbits⟩
  exact hwait.elim (Nat.not_le.mpr hquiet) hbits

/-- Settles O27, by the effects each event can have in a running core. -/
theorem loopStateFollowsTheTransitionTable : Obligations.LoopStateFollowsTheTransitionTable := by
  unfold Obligations.LoopStateFollowsTheTransitionTable
  intro s t hinv hrun
  obtain ⟨-, hheight⟩ := hinv.cfg_pos hrun
  refine ⟨fun b now hexec => ?_, fun now hexec => ?_, fun hexec => ?_, fun hexec => ?_, fun hidle => ?_⟩
  · cases eventEffect_of_exec hexec with
    | ignored _ hhalt => cases hrun.symm.trans hhalt
    | fed => rfl
  · cases eventEffect_of_exec hexec with
    | ignored _ hhalt => cases hrun.symm.trans hhalt
    | slept _ _ hwait => rw [if_neg (not_quiescent_and_pending hwait)]
    | finalized _ f _ hquiet hbits => rw [if_pos ⟨(quiescent_iff now s).mpr hquiet, (pending_iff s).mpr hbits⟩]
    | heightError _ _ _ _ hzero => omega
  · cases eventEffect_of_exec hexec with
    | ignored => rfl
    | cancelled => rfl
  · cases eventEffect_of_exec hexec with
    | ignored => rfl
    | readFailed => rfl
  · obtain ⟨-, hbs⟩ := hinv.idle_iff_empty.mp hidle
    exact (pending_eq_false_iff s).mpr hbs

end Sys2Proof.Machine
end

section
/-! SUPPORT. What holds along a run of events: one induction, the output that only grows, and the account of the bytes
presented since the accumulator was empty (R136, R216, R219). -/

namespace Sys2Proof.Machine

/-! ### Runs -/

/-- What holds before a run and is kept by each event of it, the events so far remembered, holds after it. -/
theorem runEvents_induction {P : List Instr → State → Prop} {s t : State} {es : List Instr} (start : P [] s)
    (event : ∀ (done : List Instr) (i : Instr) (u v : State), P done u → exec i u = .next v → P (done ++ [i]) v)
    (h : runEvents es s = .next t) : P es t := by
  suffices hgo : ∀ (es done : List Instr) (u : State), P done u → runEvents es u = .next t → P (done ++ es) t from
    hgo es [] s start h
  intro es
  induction es with
  | nil =>
    intro done u hu hrun
    rw [runEvents_nil, Host.Outcome.next.injEq] at hrun
    rwa [List.append_nil, ← hrun]
  | cons i es ih =>
    intro done u hu hrun
    obtain ⟨v, hexec, hrest⟩ := runEvents_cons_next hrun
    rw [List.append_cons]
    exact ih (done ++ [i]) v (event done i u v hu hexec) hrest

@[simp] theorem bytesOf_append (es es' : List Instr) : bytesOf (es ++ es') = bytesOf es ++ bytesOf es' := by
  induction es with
  | nil => rfl
  | cons i es ih => cases i <;> simp [bytesOf, ih]

theorem lastByteTime_append (a : Nat) (es es' : List Instr) :
    lastByteTime a (es ++ es') = lastByteTime (lastByteTime a es) es' := by
  induction es generalizing a with
  | nil => rfl
  | cons i es ih => cases i <;> simp [lastByteTime, ih]

/-- Events take no frame back. -/
theorem EventEffect.framesOf_kept {i : Instr} {s t : State} (h : EventEffect s i t) :
    framesOf s.outs <+: framesOf t.outs := by
  rcases h.framesOf_outs with hsame | ⟨now, f, -, hmore⟩
  · exact ⟨[], by rw [hsame, List.append_nil]⟩
  · exact ⟨[f], hmore.symm⟩

/-! ### The bytes an accumulator holds -/

/-- The accumulator holds exactly the byte stream `x`: its leftover in BB, the bits of its whole packets in BS (R136). -/
def HoldsBytes (s : State) (x : List RawByte) : Prop :=
  s.bb = leftover s.cfg.packetSize x ∧ s.bs = packetBits s.cfg.packetSize x

theorem holdsBytes_nil {s : State} (hbb : s.bb = []) (hbs : s.bs = []) : HoldsBytes s [] := by
  simp [HoldsBytes, hbb, hbs, leftover, packetBits]

section

variable {s : State} {x : List RawByte}

/-- FEED1 adds its byte to what the accumulator holds (R132). -/
theorem HoldsBytes.after_feed1 (h : HoldsBytes s x) (hshort : s.bb.length < s.cfg.packetSize) (b : RawByte) :
    HoldsBytes (feed1 b s) (x ++ [b]) := by
  obtain ⟨hbb, hbs⟩ := h
  have hN : 1 ≤ s.cfg.packetSize := by omega
  have hleft : leftover s.cfg.packetSize (x ++ [b]) = leftover s.cfg.packetSize (s.bb ++ [b]) := by
    rw [leftover_append hN, ← hbb]
  have hbits : packetBits s.cfg.packetSize (x ++ [b]) = s.bs ++ packetBits s.cfg.packetSize (s.bb ++ [b]) := by
    rw [packetBits_append hN, ← hbb, ← hbs]
  rw [← feed_singleton hshort, feed_eq hN]
  exact ⟨hleft.symm, hbits.symm⟩

/-- Bits are pending exactly when a whole packet has been received (R28). -/
theorem HoldsBytes.bs_ne_nil_iff (h : HoldsBytes s x) (hN : 1 ≤ s.cfg.packetSize) :
    s.bs ≠ [] ↔ s.cfg.packetSize ≤ x.length := by
  obtain ⟨-, hbs⟩ := h
  rw [hbs, ← List.length_pos_iff, packetBits_length hN]
  constructor
  · intro hpos
    by_contra hlt
    simp [Nat.div_eq_of_lt (Nat.not_le.mp hlt)] at hpos
  · intro hle
    exact Nat.mul_pos (Nat.div_pos hle hN) (by omega)

/-- What an event makes of the bytes held: a frame costs at least one packet of them (R219). -/
theorem EventEffect.exists_holdsBytes {i : Instr} {t : State} (h : EventEffect s i t) (hinv : BoundaryInv s)
    (hx : HoldsBytes s x) :
    ∃ y, HoldsBytes t y ∧
      (framesOf t.outs).length * s.cfg.packetSize + y.length ≤
        (framesOf s.outs).length * s.cfg.packetSize + x.length + (bytesOf [i]).length := by
  cases h with
  | finalized now f hrun hquiet hbits =>
    obtain ⟨hN, -⟩ := hinv.cfg_pos hrun
    have hpacket := (hx.bs_ne_nil_iff hN).mp hbits
    refine ⟨[], holdsBytes_nil rfl rfl, ?_⟩
    simp only [framesOf_append, framesOf, List.length_append, List.length_singleton, Nat.succ_mul, List.length_nil]
    omega
  | fed b now hrun => exact ⟨x ++ [b], hx.after_feed1 (hinv.bb_short_of_running hrun) b, by simp [bytesOf]; omega⟩
  | _ => exact ⟨x, hx, by simp [framesOf]⟩

/-- An event that neither halts the core nor emits a frame adds its bytes to those held. -/
theorem EventEffect.holdsBytes {i : Instr} {t : State} (h : EventEffect s i t) (hinv : BoundaryInv s)
    (hx : HoldsBytes s x) (hrun : t.run = true) (hframes : framesOf t.outs = framesOf s.outs) :
    HoldsBytes t (x ++ bytesOf [i]) ∧ t.la = lastByteTime s.la [i] := by
  cases h with
  | ignored _ hhalt => cases hhalt.symm.trans hrun
  | slept =>
    rw [← List.append_nil x] at hx
    exact ⟨hx, rfl⟩
  | finalized => simp [framesOf] at hframes
  | heightError => cases hrun
  | fed b now hs => exact ⟨hx.after_feed1 (hinv.bb_short_of_running hs) b, rfl⟩
  | cancelled => cases hrun
  | readFailed => cases hrun

/-- No event sets RUN. -/
theorem EventEffect.run_of_run {i : Instr} {t : State} (h : EventEffect s i t) (hrun : t.run = true) :
    s.run = true := by
  cases h with
  | ignored => exact hrun
  | slept _ hs => exact hs
  | finalized _ _ hs => exact hs
  | heightError _ hs => exact hs
  | fed _ _ hs => exact hs
  | cancelled hs => exact hs
  | readFailed hs => exact hs

end

/-! ### The account of a run from an empty accumulator -/

/-- After the events `es` from `s`, whose accumulator was empty: the bytes held and a packet for each frame emitted are
paid for by the bytes presented, and in a running core that has emitted no frame every byte presented is held and LA is
the time of the last. -/
structure RunAccount (s : State) (es : List Instr) (t : State) : Prop where
  inv : BoundaryInv t
  cfg_eq : t.cfg = s.cfg
  impl_eq : t.impl = s.impl
  frames_kept : framesOf s.outs <+: framesOf t.outs
  paid : ∃ x, HoldsBytes t x ∧
    (framesOf t.outs).length * s.cfg.packetSize + x.length ≤
      (framesOf s.outs).length * s.cfg.packetSize + (bytesOf es).length
  held : t.run = true → framesOf t.outs = framesOf s.outs →
    HoldsBytes t (bytesOf es) ∧ t.la = lastByteTime s.la es

theorem RunAccount.start {s : State} (hinv : BoundaryInv s) (hbb : s.bb = []) (hbs : s.bs = []) :
    RunAccount s [] s where
  inv := hinv
  cfg_eq := rfl
  impl_eq := rfl
  frames_kept := ⟨[], List.append_nil _⟩
  paid := ⟨[], holdsBytes_nil hbb hbs, le_rfl⟩
  held := fun _ _ => ⟨holdsBytes_nil hbb hbs, rfl⟩

theorem RunAccount.event {s u v : State} {es : List Instr} {i : Instr} (hacc : RunAccount s es u)
    (hexec : exec i u = .next v) : RunAccount s (es ++ [i]) v := by
  have heffect := eventEffect_of_exec hexec
  obtain ⟨hcfg, himpl, -⟩ := exec_next_frame hexec
  refine
    { inv := hacc.inv.of_effect heffect
      cfg_eq := hcfg.trans hacc.cfg_eq
      impl_eq := himpl.trans hacc.impl_eq
      frames_kept := hacc.frames_kept.trans heffect.framesOf_kept
      paid := ?_
      held := fun hrun hframes => ?_ }
  · obtain ⟨x, hx, hpaid⟩ := hacc.paid
    obtain ⟨y, hy, hmore⟩ := heffect.exists_holdsBytes hacc.inv hx
    rw [hacc.cfg_eq] at hmore
    refine ⟨y, hy, ?_⟩
    rw [bytesOf_append, List.length_append]
    omega
  · have hback : framesOf u.outs <+: framesOf s.outs := hframes ▸ heffect.framesOf_kept
    have hnone : framesOf u.outs = framesOf s.outs := hback.eq_of_length_le hacc.frames_kept.length_le
    obtain ⟨hx, hla⟩ := hacc.held (heffect.run_of_run hrun) hnone
    rw [bytesOf_append, lastByteTime_append, ← hla]
    exact heffect.holdsBytes hacc.inv hx hrun (hframes.trans hnone.symm)

/-- Every run from an empty accumulator keeps the account. -/
theorem runAccount_of_run {s t : State} {es : List Instr} (hinv : BoundaryInv s) (hbb : s.bb = []) (hbs : s.bs = [])
    (h : runEvents es s = .next t) : RunAccount s es t :=
  runEvents_induction (.start hinv hbb hbs) (fun _ _ _ _ hacc hexec => hacc.event hexec) h

/-- At most one frame for every `N` bytes presented (R219). -/
theorem RunAccount.frames_mul_le {s t : State} {es : List Instr} (hacc : RunAccount s es t) :
    ((framesOf t.outs).length - (framesOf s.outs).length) * s.cfg.packetSize ≤ (bytesOf es).length := by
  obtain ⟨x, -, hpaid⟩ := hacc.paid
  rw [Nat.sub_mul]
  omega

/-- In a running core that has emitted no frame, bits are pending exactly when a packet has been presented. -/
theorem RunAccount.bs_ne_nil_iff {s t : State} {es : List Instr} (hacc : RunAccount s es t) (hrun : t.run = true)
    (hframes : framesOf t.outs = framesOf s.outs) : t.bs ≠ [] ↔ s.cfg.packetSize ≤ (bytesOf es).length := by
  obtain ⟨hx, -⟩ := hacc.held hrun hframes
  obtain ⟨hN, -⟩ := hacc.inv.cfg_pos hrun
  rw [hx.bs_ne_nil_iff hN, hacc.cfg_eq]

end Sys2Proof.Machine
end

section
/-! PROOFS. The frames of a run: none without a packet, at most one per packet, made of the bytes alone, and when
(R214 to R219). -/

namespace Sys2Proof.Machine

/-- With no bit pending, POLL events only ask to sleep (R214). -/
theorem runEvents_polls {s : State} (hrun : s.run = true) (hbs : s.bs = []) (hw : s.impl.tsWidth = none)
    (ts : List Nat) :
    runEvents (ts.map .poll) s =
      .next { s with outs := s.outs ++ List.replicate ts.length (.sleep s.cfg.pTicks) } := by
  induction ts generalizing s with
  | nil => simp
  | cons now ts ih =>
    have hexec : exec (.poll now) s = .next { s with outs := s.outs ++ [.sleep s.cfg.pTicks] } :=
      execPoll_of_no_pending hrun (pollTimesFit_of_unbounded hw now) hbs
    rw [List.map_cons, runEvents_cons_of_next hexec, ih (by exact hrun) (by exact hbs) (by exact hw), List.append_assoc,
      List.length_cons, List.replicate_succ, List.singleton_append]

/-- Settles O31: a frame would cost a packet of the bytes presented. -/
theorem noByteNoFrame : Obligations.NoByteNoFrame := by
  unfold Obligations.NoByteNoFrame
  refine ⟨fun s ts hrun hbs hw => runEvents_polls hrun hbs hw ts, fun s t es hinv hbb hbs h hfew => ?_⟩
  have hacc := runAccount_of_run hinv hbb hbs h
  have hcost := hacc.frames_mul_le.trans_lt hfew
  have hnone : (framesOf t.outs).length - (framesOf s.outs).length = 0 := by
    by_contra hsome
    exact absurd hcost (Nat.not_lt.mpr (Nat.le_mul_of_pos_left _ (Nat.pos_of_ne_zero hsome)))
  exact (hacc.frames_kept.eq_of_length_le (by omega)).symm

/-- Settles O32: a frame takes a POLL, and over a run a packet of the bytes presented. -/
theorem framesAreBoundedByPackets : Obligations.FramesAreBoundedByPackets := by
  unfold Obligations.FramesAreBoundedByPackets
  refine ⟨fun i s t hexec => ?_, fun s t es hinv hbb hbs h => (runAccount_of_run hinv hbb hbs h).frames_mul_le⟩
  rcases (eventEffect_of_exec hexec).framesOf_outs with hsame | ⟨now, f, hpoll, hmore⟩
  · exact ⟨by rw [hsame]; omega, fun _ => hsame⟩
  · exact ⟨by simp [hmore], fun hno => absurd hpoll (hno now)⟩

/-- Settles O33: a POLL that emits finds in BS the bits of the whole packets presented. -/
theorem frameDependsOnlyOnTheBytes : Obligations.FrameDependsOnlyOnTheBytes := by
  unfold Obligations.FrameDependsOnlyOnTheBytes
  intro s t u es now f hinv hbb hbs h hframes hexec houts
  have hacc := runAccount_of_run hinv hbb hbs h
  obtain ⟨hrun, hbits, hframe, -⟩ := (eventEffect_of_exec hexec).finalized_of_emit houts
  obtain ⟨⟨-, htbs⟩, -⟩ := hacc.held hrun hframes
  obtain ⟨hN, -⟩ := hacc.inv.cfg_pos hrun
  rw [htbs, hacc.cfg_eq] at hframe
  rw [hacc.cfg_eq] at hN
  exact ⟨hframe, Nat.div_pos ((hacc.bs_ne_nil_iff hrun hframes).mp hbits) hN⟩

/-- Settles O34: both conditions of POLL's test, read off the account of the run. -/
theorem pollFinalizesExactlyWhen : Obligations.PollFinalizesExactlyWhen := by
  unfold Obligations.PollFinalizesExactlyWhen
  intro s t es now hinv hbb hbs hunbounded h hframes
  have hacc := runAccount_of_run hinv hbb hbs h
  constructor
  · rintro ⟨f, hexec⟩
    obtain ⟨hrun, hbits, -, now', hpoll, hquiet, -⟩ := (eventEffect_of_exec hexec).finalized_of_emit rfl
    obtain rfl := Instr.poll.inj hpoll
    obtain ⟨-, hla⟩ := hacc.held hrun hframes
    rw [hla, hacc.cfg_eq] at hquiet
    exact ⟨hrun, (hacc.bs_ne_nil_iff hrun hframes).mp hbits, hquiet⟩
  · rintro ⟨hrun, hpacket, hquiet⟩
    obtain ⟨-, hla⟩ := hacc.held hrun hframes
    obtain ⟨-, hheight⟩ := hacc.inv.cfg_pos hrun
    obtain ⟨htime, -⟩ := hunbounded
    rw [← hla, ← hacc.cfg_eq] at hquiet
    rw [← hacc.impl_eq] at htime
    exact ⟨_, execPoll_of_finalizing hrun (pollTimesFit_of_unbounded htime now) hquiet
      ((hacc.bs_ne_nil_iff hrun hframes).mpr hpacket) (assemble_of_pos hheight)⟩

end Sys2Proof.Machine
end

section
/-! PROOFS. The release of the byte source: Close and the end of the session loop are one event (R210, R211, R255). -/

namespace Sys2Proof.Machine

/-- What an event outputs holds one Close if the event clears RUN, and none otherwise: CANCEL and the read failure do
both, the others neither. A POLL that fails at height 0 clears RUN without a Close, so a running core needs a height. -/
theorem EventEffect.count_close_new {i : Instr} {s t : State} (h : EventEffect s i t)
    (hpos : s.run = true → 1 ≤ s.cfg.height) :
    ∃ new : List OutAction, t.outs = s.outs ++ new ∧
      new.count .close = if s.run = true ∧ t.run = false then 1 else 0 := by
  cases h with
  | ignored _ hhalt => exact ⟨[], by simp, by simp [hhalt]⟩
  | slept _ hrun => exact ⟨_, rfl, by simp [hrun]⟩
  | finalized _ _ hrun => exact ⟨_, rfl, by simp [hrun]⟩
  | heightError _ hrun _ _ hzero =>
    have hheight := hpos hrun
    omega
  | fed _ _ hrun => exact ⟨[], by simp, by simp [hrun]⟩
  | cancelled hrun => exact ⟨_, rfl, by simp [hrun]⟩
  | readFailed hrun => exact ⟨_, rfl, by simp [hrun]⟩

/-- Settles O26: the invariant gives a running core its height, and what the event appends is all that it outputs. -/
theorem closeExactlyWhenTheLoopEnds : Obligations.CloseExactlyWhenTheLoopEnds := by
  unfold Obligations.CloseExactlyWhenTheLoopEnds
  intro i s t hinv hexec
  obtain ⟨new, houts, hclose⟩ := (eventEffect_of_exec hexec).count_close_new fun hrun => (hinv.cfg_pos hrun).2
  rw [houts, List.count_append, hclose]

end Sys2Proof.Machine
end

section
/-! PROOFS. Reset with an illegal configuration (R282) and the step with nothing presented (R281). -/

namespace Sys2Proof.Machine

/-- CFG_OK fails exactly when the packet size or the height is 0 (R39). -/
theorem cfgOk_eq_false_iff (c : Cfg) : cfgOk c = false ↔ c.packetSize = 0 ∨ c.height = 0 := by
  rw [← Bool.not_eq_true, cfgOk_iff]
  omega

/-- Settles O15: the step answers the state in which reset has raised the configuration error, and that state is
halted. -/
theorem illegalConfigurationHaltsAtReset : Obligations.IllegalConfigurationHaltsAtReset := by
  unfold Obligations.IllegalConfigurationHaltsAtReset
  intro s c rest hinput hillegal
  have hreset := applyReset_of_not_ok ((cfgOk_eq_false_iff c).mpr hillegal) (setInput rest s)
  exact ⟨_, (step_of_reset hinput).trans (congrArg _ hreset), rfl, rfl, rfl, runEvents_of_halted rfl⟩

/-- Settles O10: with no stimulus to accept, the step answers the state it is given. -/
theorem stepWithNothingPresentedWaits : Obligations.StepWithNothingPresentedWaits := by
  unfold Obligations.StepWithNothingPresentedWaits
  exact fun _ => step_of_nil

end Sys2Proof.Machine
end

section
/-! PROOFS. Sample words of the spec's test vectors V51 and V58 and of its programs P1 to P3. -/

namespace Sys2Proof.Machine

/-- Settles O4: each word carries the operation code of its row (R92 to R96), and the two RXB words carry the bytes
`0x4A` and `0xFF` in their data field. -/
theorem specWordsDecode : Obligations.SpecWordsDecode := by
  unfold Obligations.SpecWordsDecode
  refine ⟨?poll, ?rxb4A, ?rxbFF, ?cancel, ?rxerr, ?reserved400, ?reserved7FF⟩
  case poll => exact decode_of_op_poll rfl 500
  case rxb4A =>
    have hbyte : dataField 0x14A = 0x4A := rfl
    exact hbyte ▸ decode_of_op_rxb rfl 0
  case rxbFF =>
    have hbyte : dataField 0x1FF = 0xFF := rfl
    exact hbyte ▸ decode_of_op_rxb rfl 3100
  case cancel => exact decode_of_op_cancel rfl 7
  case rxerr => exact decode_of_op_rxerr rfl 7
  case reserved400 =>
    have hop : opField 0x400 = 4 := rfl
    exact hop ▸ decode_of_op_reserved (by decide) 0
  case reserved7FF =>
    have hop : opField 0x7FF = 7 := rfl
    exact hop ▸ decode_of_op_reserved (by decide) 0

end Sys2Proof.Machine
end
